-- ==== Sys2Proof/Word.lean ====
section
/-! DEFINITION. The words of the WB-3120: bytes of registers and characters, 16-bit counters and
check registers, and the two levels of a bit on the station line (R1). -/

namespace Sys2Proof

/-- A register byte, a payload byte or a character of the station line. -/
abbrev Byte := BitVec 8

/-- A 16-bit value: an event counter, the counter latch, the check register. -/
abbrev Word := BitVec 16

/-- The level of one bit on the station line (R1): dominant is 0, recessive is 1. -/
inductive LineBit where
  | dominant
  | recessive
  deriving DecidableEq, Repr

end Sys2Proof
end

