-- ==== Sys2Proof/Syntax.lean ====
section
/-! DEFINITION. The commands the block takes: one constructor for each row of the opcode table, with
the names those rows use. -/

namespace Sys2Proof

/-- The priority class of a message (conventions 4.4): class 0 URGENT to class 3 BULK. -/
inductive Class where
  | urgent
  | control
  | normal
  | bulk
  deriving DecidableEq, Repr

/-- The class number, 0 to 3 (conventions 4.4). -/
def Class.toNat : Class → Nat
  | .urgent => 0
  | .control => 1
  | .normal => 2
  | .bulk => 3

/-- The commands that a write of CMD can name (11.3). -/
inductive HostCommand where
  | allocate | submit | abort | collect
  | release | flush | pause | resume
  | forget | queryPeer | join | leave
  | goOnline | goListen | goLoop | goOffline
  | setAddress | clear | clearCounters
  deriving DecidableEq, Repr

/-- The registers of the 64-byte window (11.1). -/
inductive Register where
  | ident | version | cmd | cst
  | arg (i : Fin 4)
  | res (i : Fin 4)
  | hstat | intid | inten | flow
  | stn0 | stn1 | rxstat0 | rxstat1
  | head (i : Fin 6)
  | freecnt | winsel | winofs | windata
  | divl | divh | hiwat | lowat | rxtrig | stale | retry | reserve | holdoff | faultlim | rxopt
  | cntsel | cntl | cnth
  deriving DecidableEq, Repr

/-- One constructor for each row of spec/opcode_table.json.

The host commands take their arguments from ARG0 to ARG3 (R189) and so have no operand. A register
write carries the byte on the data lines. A line event carries what the line showed: the byte and the
stop bit of a character, the data bit of the lead at which contention was lost, the bit of the frame
that was read back wrong. -/
inductive Instr where
  -- commands through CMD
  | allocate
  | submit
  | abort
  | collect
  | release
  | flush
  | pause
  | resume
  | forget
  | queryPeer
  | join
  | leave
  | goOnline
  | goListen
  | goLoop
  | goOffline
  | setAddress
  | clear
  | clearCounters
  | unknownCommand (code : Byte)
  -- reads with a side effect
  | stnRead
  | rxstatRead
  | flowRead
  | hstatRead
  | windataRead
  -- writes of registers with a row of their own
  | windataWrite (value : Byte)
  | winselWrite (value : Byte)
  | winofsWrite (value : Byte)
  | cntlRead
  | cntselWrite (value : Byte)
  | intenWrite (value : Byte)
  | divlWrite (value : Byte)
  | divhWrite (value : Byte)
  | hiwatWrite (value : Byte)
  | lowatWrite (value : Byte)
  | rxtrigWrite (value : Byte)
  | staleWrite (value : Byte)
  -- a write of any other offset
  | registerWrite (offset : BitVec 6) (value : Byte)
  -- reset and supply
  | resetAsserted
  | resetReleased
  | powerUp
  -- the station line
  | startBit
  | characterReceived (value : Byte) (stop : LineBit)
  | gapGuardClear
  | gapLimitTruncation
  | gapLimitRecover
  | demotionClear (cls : Class)
  | leadStart
  | contentionLost (bit : Fin 8)
  | leadWon
  | echoFault (bit : Nat)
  | frameSent
  | responseStart
  | responseSent
  | noResponse
  | holdoffExpiry (node : Nat)
  | staleTimerExpiry
  | dominantBitInRecover
  deriving DecidableEq, Repr

end Sys2Proof
end

