-- ==== Sys2Proof/Config.lean ====
section
/-! DEFINITION. The fixed numbers of the part: capacities, marks of the quiet count, ranges. The spec
leaves no result undefined, so there is no free value here. -/

namespace Sys2Proof.Config

/-- Blocks of message memory (R47). -/
def blockCount : Nat := 128
/-- Bytes of one block (R47). -/
def blockBytes : Nat := 32
/-- Bytes of message memory (R47). -/
def memoryBytes : Nat := 4096
/-- Entries of the receive queue (R115). -/
def queueCapacity : Nat := 24
/-- Addresses of the refused list and of a READY list (R127, R14). -/
def listCapacity : Nat := 16
/-- Entries of the peer table (R139). -/
def peerCapacity : Nat := 16
/-- Addresses of the group list (R102). -/
def groupCapacity : Nat := 8
/-- The greatest payload of a message (R14). -/
def maxLength : Nat := 240
/-- The greatest node address (R10). -/
def maxNode : Nat := 47
/-- The greatest group address (R10). -/
def maxGroup : Nat := 62
/-- The broadcast address (R10). -/
def broadcast : Nat := 63
/-- Valid BUSY responses after which a slot is REFUSED (R81). -/
def maxBusy : Nat := 16
/-- The value at which the consecutive fault count stops (R34). -/
def maxFaults : Nat := 15
/-- Bit-times of one span (3.1). -/
def span : Nat := 256
/-- Bit-times of one character (R3). -/
def characterBits : Nat := 10

/-- The response gap (1.5). -/
def responseGap : Nat := 4
/-- The response deadline (1.5). -/
def responseDeadline : Nat := 10
/-- The gap limit (1.5). -/
def gapLimit : Nat := 11
/-- The base contention threshold of a class: 12, 14, 16, 18 (1.5). -/
def baseThreshold (c : Class) : Nat := 12 + 2 * c.toNat
/-- The demoted contention threshold of a class: 13, 15, 17, 19 (1.5). -/
def demotedThreshold (c : Class) : Nat := baseThreshold c + 1

end Sys2Proof.Config
end

