-- ==== Sys2Proof/Machine/State.lean ====
section
/-! DEFINITION. The state of the WB-3120, block by block as the chapters name it, its faults and
refusals, and the state after hardware reset and power-up. -/

namespace Sys2Proof.Machine

open Sys2Proof

/-- Why a step can stop with a fault. Both are safe: the model stops where the spec's own records
would not be whole, and neither can come about from reset. -/
inductive Fault where
  /-- Raised by LEAD_START, WINDATA_READ, WINDATA_WRITE, CHARACTER_RECEIVED and a REGISTER_WRITE of
  WINDATA when a message offset below the message's length lies in no block of its chain (R51 says
  that it always does): an address of message memory that does not exist. Safe. -/
  | outsideChain
  /-- Raised by LEAD_START and RESPONSE_START when the state holds no node address, no slot record or
  no peer entry to form the frame from (R31, R37 presuppose them). Safe. -/
  | noFrameSource
  deriving DecidableEq, Repr

/-- Why a step can be refused. No meaning refuses. -/
inductive Refusal where
  /-- A command of the table that has no meaning yet; raised by `exec` alone. Safe. -/
  | notModelled (mnemonic : String)
  deriving DecidableEq, Repr

/-- A slot number. -/
abbrev SlotId := Fin 16

/-- A block number (R47). -/
abbrev Block := Fin 128

/-- One value for each class. -/
structure PerClass (α : Type) where
  urgent : α
  control : α
  normal : α
  bulk : α
  deriving DecidableEq, Repr

/-- The same value for every class. -/
def PerClass.all {α : Type} (a : α) : PerClass α :=
  { urgent := a, control := a, normal := a, bulk := a }

/-- Four bytes: ARG0 to ARG3, or RES0 to RES3. -/
structure Quad where
  b0 : Byte
  b1 : Byte
  b2 : Byte
  b3 : Byte
  deriving DecidableEq, Repr

/-- Four bytes of 00h. -/
def Quad.zero : Quad := { b0 := 0, b1 := 0, b2 := 0, b3 := 0 }

/-! ### Line Access Controller -/

/-- The LAC states (R20). -/
inductive LacMode where
  | offline | quiet | contend | send | respond | receive
  deriving DecidableEq, Repr

/-- The candidate that TS presents to LAC (R25). -/
inductive Offer where
  | slot (n : SlotId)
  | notice
  deriving DecidableEq, Repr

/-- The two response kinds (R36). -/
inductive ResponseKind where
  | ack
  | busy
  deriving DecidableEq, Repr

/-- A response order (R36). `createdAt` is the model's own: the quiet count of the frame end whose decision
created the entry of the source in the table's last place, if it did (R143, R144; log 29). -/
structure ResponseOrder where
  kind : ResponseKind
  reason : Byte
  seq : Bool
  dest : Nat
  createdAt : Option Nat
  deriving DecidableEq, Repr

/-- What the frame being driven carries (2.1). A slot keeps the slots that stood ahead of it in its
class queue at commitment and have not left it since, for its return after a lost lead (R70). -/
inductive BurstSource where
  | slot (n : SlotId) (ahead : List SlotId)
  | notice
  | response
  deriving DecidableEq, Repr

/-- The frame being sent while LAC is in CONTEND, SEND or RESPOND: its characters as formed at
commitment (R31, R37), and how many of its bits have been driven. -/
structure Burst where
  source : BurstSource
  chars : List Byte
  bits : Nat
  deriving DecidableEq, Repr

/-- The state of LAC (2.1). `path` is the internal path of LOOP (R174): the characters of the frame
that LAC drives on it which FR has not completed yet. -/
structure Lac where
  mode : LacMode
  quiet : Nat
  demoted : PerClass Bool
  faults : Nat
  offer : Option Offer
  order : Option ResponseOrder
  window : Option SlotId
  burst : Option Burst
  path : List Byte
  deriving DecidableEq, Repr

/-! ### Transmit Scheduler -/

/-- How a message is sent, and the kind of a receive entry (R64, R115). -/
inductive MsgKind where
  | data
  | datagram
  deriving DecidableEq, Repr

/-- The outcomes of a slot (R64). -/
inductive SlotOutcome where
  | delivered | sent | aborted | failed | refused
  deriving DecidableEq, Repr

/-- The states of a slot that is not FREE (R65). -/
inductive SlotPhase where
  | loading | queued | offered | sending | awaiting
  | done (outcome : SlotOutcome)
  deriving DecidableEq, Repr

/-- A slot record (R64). `sentSeq` is the SEQ of the DATA frame the slot sent last, which R150
compares with the SEQ of an ACK. -/
structure Slot where
  phase : SlotPhase
  kind : MsgKind
  cls : Class
  dest : Nat
  length : Nat
  chain : List Block
  attempts : Nat
  busyCount : Nat
  reason : Option Byte
  uncertain : Bool
  abortPending : Bool
  sentSeq : Bool
  deriving DecidableEq, Repr

/-- The state of TS (chapter 4). A FREE slot is `none`: only its state is held (R64). -/
structure Ts where
  slots : Vector (Option Slot) 16
  queues : PerClass (List SlotId)
  completion : List SlotId
  deriving DecidableEq, Repr

/-! ### Block Pool -/

/-- The state of BP (chapter 3): the free list and the 4096 bytes of message memory, as the bytes
that are not 00h, by rising address (R47). -/
structure Bp where
  free : List Block
  mem : List Host.Cell
  deriving DecidableEq, Repr

/-! ### Frame Receiver -/

/-- The receiver states (R94). -/
inductive FrMode where
  | off | hunt | header | body | check | recover
  deriving DecidableEq, Repr

/-- The frame kinds (R11). -/
inductive Kind where
  | data | datagram | ack | busy | ready
  deriving DecidableEq, Repr

/-- The destination sorts (R101). -/
inductive DestSort where
  | own | group | broadcast
  deriving DecidableEq, Repr

/-- The result of the resource claim (R104). -/
inductive Claim where
  | unclaimed | succeeded | failed
  deriving DecidableEq, Repr

/-- The reception record (5.3). A field that a character sets is present once the character count
has passed that character; before, it holds the value of `Rx.empty` and nothing reads it.
`leadBits` are the bits of a lost lead that LAC passed on (R97), `inChar` says that the start bit of a
character has been seen and its stop bit has not, and `checkHigh` is the first CHECK character. -/
structure Rx where
  count : Nat
  leadBits : List LineBit
  inChar : Bool
  candidate : Bool
  cls : Class
  src : Nat
  kind : Kind
  seq : Bool
  resync : Bool
  dest : Nat
  accepted : Option DestSort
  length : Nat
  reason : Byte
  claim : Claim
  chain : List Block
  received : Nat
  list : List Byte
  crc : Word
  checkHigh : Byte
  deriving DecidableEq, Repr

/-- A record as R98 opens it. -/
def Rx.empty : Rx :=
  { count := 0, leadBits := [], inChar := true, candidate := false, cls := .urgent, src := 0,
    kind := .data, seq := false, resync := false, dest := 0, accepted := none, length := 0,
    reason := 0, claim := .unclaimed, chain := [], received := 0, list := [], crc := 0xFFFF,
    checkHigh := 0 }

/-- The state of FR (chapter 5). The receive options stand in `Cfg`, the counters in `Counters`. -/
structure Fr where
  mode : FrMode
  guard : Bool
  record : Option Rx
  groups : List Nat
  deriving DecidableEq, Repr

/-! ### Receive Queue -/

/-- The tags of a receive entry (R116). -/
structure Tags where
  crcBad : Bool
  framing : Bool
  truncated : Bool
  adopted : Bool
  unanswered : Bool
  lossBefore : Bool
  deriving DecidableEq, Repr

/-- No tag. -/
def Tags.none : Tags :=
  { crcBad := false, framing := false, truncated := false, adopted := false, unanswered := false,
    lossBefore := false }

/-- A receive entry (R115). `dest` is the DEST under which the frame was accepted (11.4). -/
structure Entry where
  src : Nat
  dest : Nat
  sort : DestSort
  cls : Class
  kind : MsgKind
  length : Nat
  declared : Option Nat
  tags : Tags
  chain : List Block
  deriving DecidableEq, Repr

/-- The contents of a READY notice (R128). -/
inductive Named where
  | all
  | list (nodes : List Nat)
  deriving DecidableEq, Repr

/-- The READY notice (R128 to R130). -/
structure Notice where
  contents : Named
  committed : Bool
  deferred : Option Named
  deriving DecidableEq, Repr

/-- The state of RQ (chapter 6). The level is the length of `entries`. `stale` is the stale timer:
stopped, or the bit-times elapsed. -/
structure Rq where
  entries : List Entry
  congested : Bool
  paused : Bool
  refused : List Nat
  overflow : Bool
  notice : Option Notice
  stale : Option Nat
  rxStale : Bool
  drop : Bool
  loss : Bool
  deriving DecidableEq, Repr

/-! ### Peer Table -/

/-- A peer entry (R138). `holdoff` is remote busy with its holdoff: absent while remote busy is clear,
else the bit-times left before expiry. -/
structure Peer where
  node : Nat
  synced : Bool
  txSeq : Bool
  holdoff : Option Nat
  rxKnown : Bool
  rxSeq : Bool
  rxResync : Bool
  active : Bool
  deriving DecidableEq, Repr

/-! ### Station Control, Interrupt Unit, Host Port -/

/-- The station states (R163). -/
inductive Station where
  | offline | listen | online | silent | loop
  deriving DecidableEq, Repr

/-- The state of SC (chapter 8). -/
structure Sc where
  station : Station
  address : Option Nat
  faultEvent : Bool
  deriving DecidableEq, Repr

/-- The state of IU (chapter 9): the enables, bit 0 FAULT to bit 5 FLOW, and the four flow events. -/
structure Iu where
  inten : BitVec 6
  flowEntered : Bool
  flowLeft : Bool
  flowBusy : Bool
  flowReleased : Bool
  deriving DecidableEq, Repr

/-- The result codes of CST (R190). -/
inductive Cst where
  | ok | deferred | empty | noSlot | noMemory | badArgument | badState | tooLate | notFound | full
  | unknown
  deriving DecidableEq, Repr

/-- The window select (R193). -/
inductive WinSel where
  | slot (n : SlotId)
  | rxHead
  deriving DecidableEq, Repr

/-- The event counters (R196). -/
inductive Counter where
  | sent | lostContention | echoFault | received | damaged | stray | duplicate | dropped
  deriving DecidableEq, Repr

/-- The state of HP (chapter 10). `dataOut` is the model's own field: the byte that the part drove on
the data lines at the last read (R188). -/
structure Hp where
  args : Quad
  res : Quad
  cst : Cst
  cmd : Byte
  windowError : Bool
  configError : Bool
  winSel : WinSel
  winOfs : Nat
  cntSel : Counter
  latch : Word
  divLow : Byte
  dataOut : Byte
  deriving DecidableEq, Repr

/-- The configuration registers (R191). -/
structure Cfg where
  div : Nat
  hiwat : Nat
  lowat : Nat
  rxtrig : Nat
  stale : Nat
  retry : Nat
  reserve : Nat
  holdoff : Nat
  faultlim : Nat
  broadcastAccept : Bool
  keepDamaged : Bool
  deriving DecidableEq, Repr

/-- The eight event counters (10.5). -/
structure Counters where
  sent : Word
  lostContention : Word
  echoFault : Word
  received : Word
  damaged : Word
  stray : Word
  duplicate : Word
  dropped : Word
  deriving DecidableEq, Repr

/-- The whole part, with the commands that wait for it, the first at the front. `resetLow` says that
RESET# is held low (R200). -/
structure State where
  lac : Lac
  ts : Ts
  bp : Bp
  fr : Fr
  rq : Rq
  pt : List Peer
  sc : Sc
  iu : Iu
  hp : Hp
  cfg : Cfg
  ctr : Counters
  resetLow : Bool
  pending : List Instr
  deriving DecidableEq, Repr

/-! ### Reset values, block by block -/

/-- LAC after hardware reset and after CLEAR (R45, R46). -/
def Lac.reset : Lac :=
  { mode := .offline, quiet := 0, demoted := .all false, faults := 0, offer := none, order := none,
    window := none, burst := none, path := [] }

/-- TS after hardware reset and after CLEAR (R92, R93). -/
def Ts.reset : Ts :=
  { slots := Vector.replicate 16 none, queues := .all [], completion := [] }

/-- The free list after hardware reset and after CLEAR: 0, 1, 2, …, 127 (R49). -/
def Bp.fullList : List Block := List.finRange 128

/-- FR after hardware reset (R114). -/
def Fr.reset : Fr := { mode := .off, guard := false, record := none, groups := [] }

/-- RQ after hardware reset and after CLEAR (R136). -/
def Rq.reset : Rq :=
  { entries := [], congested := false, paused := false, refused := [], overflow := false,
    notice := none, stale := none, rxStale := false, drop := false, loss := false }

/-- SC after hardware reset (R177). -/
def Sc.reset : Sc := { station := .offline, address := none, faultEvent := false }

/-- IU after hardware reset (R187). -/
def Iu.reset : Iu :=
  { inten := 0, flowEntered := false, flowLeft := false, flowBusy := false, flowReleased := false }

/-- HP after hardware reset (R199, R192). `dataOut` is the model's own: DESIGN CHOICE 00h, unsafe. -/
def Hp.reset : Hp :=
  { args := .zero, res := .zero, cst := .ok, cmd := 0, windowError := false, configError := false,
    winSel := .slot 0, winOfs := 0, cntSel := .sent, latch := 0, divLow := 8, dataOut := 0 }

/-- The configuration after hardware reset (R191). -/
def Cfg.reset : Cfg :=
  { div := 8, hiwat := 20, lowat := 12, rxtrig := 1, stale := 16, retry := 3, reserve := 16,
    holdoff := 8, faultlim := 4, broadcastAccept := true, keepDamaged := false }

/-- The counters after hardware reset and after CLEAR_COUNTERS (R198). -/
def Counters.zero : Counters :=
  { sent := 0, lostContention := 0, echoFault := 0, received := 0, damaged := 0, stray := 0,
    duplicate := 0, dropped := 0 }

/-- The part right after power-up with RESET# returned high (R200, R177): every block at its hardware
reset values, every byte of message memory 00h, nothing waiting. -/
def State.reset : State :=
  { lac := .reset, ts := .reset, bp := { free := Bp.fullList, mem := [] }, fr := .reset, rq := .reset,
    pt := [], sc := .reset, iu := .reset, hp := .reset, cfg := .reset, ctr := .zero,
    resetLow := false, pending := [] }

end Sys2Proof.Machine
end

