-- ==== Sys2Proof/Decode.lean ====
section
/-! DEFINITION. The table gives none of its rows any bits (every row's "fields" is empty), so no word
spells a command. -/

namespace Sys2Proof

/-- The command that a word spells by the table's bits: none for every word (log 18). -/
def decodeTableWord (_nbits _w : Nat) : Option Instr := none

end Sys2Proof
end

