-- ==== Sys2Proof/Machine/Operands.lean ====
section
/-! DEFINITION. The layouts of chapter 11: command codes, register offsets, field codes, the records
packed in result registers, the characters of the station line and the check (R17, R201 to R203). -/

namespace Sys2Proof.Machine

open Sys2Proof

/-! ### Bits and bytes -/

/-- A byte holding a number below 256. -/
def byteOf (n : Nat) : Byte := BitVec.ofNat 8 n

/-- 1 for a set flag, 0 for a clear one (chapter 11: a one-bit field reads 1 when its flag is set). -/
def flagBit (b : Bool) : Nat := if b then 1 else 0

/-- A byte from eight flags, bit 0 first. -/
def packFlags (f0 f1 f2 f3 f4 f5 f6 f7 : Bool) : Byte :=
  byteOf (flagBit f0 + 2 * flagBit f1 + 4 * flagBit f2 + 8 * flagBit f3 + 16 * flagBit f4
    + 32 * flagBit f5 + 64 * flagBit f6 + 128 * flagBit f7)

/-- A data bit 0 is dominant and a data bit 1 is recessive (11.7). -/
def lineBit (b : Bool) : LineBit := if b then .recessive else .dominant

/-- The data bit that a line level carries (11.7). -/
def dataBit : LineBit → Bool
  | .dominant => false
  | .recessive => true

/-- The eight data bits of a character in the order they are sent, bit 7 first (R3). -/
def dataBits (b : Byte) : List LineBit :=
  [7, 6, 5, 4, 3, 2, 1, 0].map fun i => lineBit (b.getLsbD i)

/-- The byte that eight line bits carry, bit 7 first. -/
def byteOfBits (bits : List LineBit) : Byte :=
  byteOf (bits.foldl (fun n b => 2 * n + flagBit (dataBit b)) 0)

/-- The ten bits of a character: start, data bits 7 to 0, stop (R3). -/
def characterBits (b : Byte) : List LineBit := .dominant :: dataBits b ++ [.recessive]

/-- Bit `i` of a frame sent back to back, counted from the start bit of its LEAD (R3). After the last
character the line is recessive. -/
def frameBit (chars : List Byte) (i : Nat) : LineBit :=
  match chars[i / Config.characterBits]? with
  | none => .recessive
  | some b => (characterBits b).getD (i % Config.characterBits) .recessive

/-- How many bits the frame of these characters has. -/
def frameBits (chars : List Byte) : Nat := Config.characterBits * chars.length

/-- The quiet count after the first `n` bits of a frame, from the count `q` before it (R5). -/
def quietAfter (chars : List Byte) (q : Nat) : Nat → Nat
  | 0 => q
  | n + 1 =>
    match frameBit chars n with
    | .dominant => 0
    | .recessive => quietAfter chars q n + 1

/-- How many recessive bits end a list of bits. -/
def recessiveTail (bits : List LineBit) : Nat :=
  (bits.reverse.takeWhile fun b => b == .recessive).length

/-- The quiet count at the stop bit of a character: its trailing recessive bits, 1 to 9, or 0 when the
stop bit is dominant (R4, R5). -/
def quietAtStop (b : Byte) (stop : LineBit) : Nat :=
  match stop with
  | .dominant => 0
  | .recessive => recessiveTail (characterBits b)

/-! ### The check (R17) -/

/-- One data bit taken into the check register. -/
def crcBit (crc : Word) (d : Bool) : Word :=
  if crc.msb = d then crc <<< 1 else (crc <<< 1) ^^^ 0x1021

/-- One covered character taken into the check register, most significant bit first. -/
def crcByte (crc : Word) (b : Byte) : Word :=
  (dataBits b).foldl (fun r d => crcBit r (dataBit d)) crc

/-- The check over the covered characters, from the preset FFFFh. -/
def crcOf (covered : List Byte) : Word := covered.foldl crcByte 0xFFFF

/-- The CHECK characters, high byte first. -/
def checkChars (crc : Word) : List Byte := [crc.extractLsb' 8 8, crc.extractLsb' 0 8]

/-- A whole frame from its covered characters. -/
def withCheck (covered : List Byte) : List Byte := covered ++ checkChars (crcOf covered)

/-! ### Characters of the line (11.7) -/

/-- LEAD: class in bits 7–6, source in bits 5–0 (R12). -/
def leadChar (c : Class) (src : Nat) : Byte := byteOf (64 * c.toNat + src)

/-- The class that a number 0 to 3 names. -/
def classOf (n : Nat) : Class :=
  match n with
  | 0 => .urgent
  | 1 => .control
  | 2 => .normal
  | _ => .bulk

/-- The kind code of CONTROL bits 7–4. -/
def kindCode : Kind → Nat
  | .data => 1
  | .datagram => 2
  | .ack => 3
  | .busy => 4
  | .ready => 5

/-- The kind that a code names; 0 and 6 to 15 name none (R16). -/
def kindOf (code : Nat) : Option Kind :=
  match code with
  | 1 => some .data
  | 2 => some .datagram
  | 3 => some .ack
  | 4 => some .busy
  | 5 => some .ready
  | _ => none

/-- CONTROL: kind in bits 7–4, bits 3–2 sent as 0, RESYNC in bit 1, SEQ in bit 0. -/
def controlChar (k : Kind) (seq resync : Bool) : Byte :=
  byteOf (16 * kindCode k + 2 * flagBit resync + flagBit seq)

/-- The refusal reasons of BUSY (R15, 11.7). -/
def reasonQueue : Byte := 1
/-- See `reasonQueue`. -/
def reasonPaused : Byte := 2
/-- See `reasonQueue`. -/
def reasonMemory : Byte := 3
/-- See `reasonQueue`. -/
def reasonNoPeer : Byte := 4

/-- The frame kind of a response. -/
def ResponseKind.kind : ResponseKind → Kind
  | .ack => .ack
  | .busy => .busy

/-- The six characters of a response (R37). -/
def responseChars (src : Nat) (o : ResponseOrder) : List Byte :=
  withCheck [leadChar .urgent src, controlChar o.kind.kind o.seq false, byteOf o.dest, o.reason]

/-- The characters of a READY frame: 0 list characters when the notice means all (R31). -/
def readyChars (src : Nat) (named : Named) : List Byte :=
  let nodes := match named with
    | .all => []
    | .list l => l
  withCheck ([leadChar .control src, controlChar .ready false false, byteOf Config.broadcast,
    byteOf nodes.length] ++ nodes.map byteOf)

/-- The characters of a DATA or DATAGRAM frame (R31). -/
def messageChars (src : Nat) (sl : Slot) (seq resync : Bool) (payload : List Byte) : List Byte :=
  let control := match sl.kind with
    | .data => controlChar .data seq resync
    | .datagram => controlChar .datagram false false
  withCheck ([leadChar sl.cls src, control, byteOf sl.dest, byteOf sl.length] ++ payload)

/-! ### Command, result and selector codes (11.3) -/

/-- The command that a code names; every other code names none (R190). -/
def commandOf (code : Byte) : Option HostCommand :=
  match code.toNat with
  | 0x10 => some .allocate
  | 0x11 => some .submit
  | 0x12 => some .abort
  | 0x13 => some .collect
  | 0x20 => some .release
  | 0x21 => some .flush
  | 0x22 => some .pause
  | 0x23 => some .resume
  | 0x30 => some .forget
  | 0x31 => some .queryPeer
  | 0x38 => some .join
  | 0x39 => some .leave
  | 0x40 => some .goOnline
  | 0x41 => some .goListen
  | 0x42 => some .goLoop
  | 0x43 => some .goOffline
  | 0x44 => some .setAddress
  | 0x4F => some .clear
  | 0x50 => some .clearCounters
  | _ => none

/-- The code of a command. -/
def commandCode : HostCommand → Byte
  | .allocate => 0x10
  | .submit => 0x11
  | .abort => 0x12
  | .collect => 0x13
  | .release => 0x20
  | .flush => 0x21
  | .pause => 0x22
  | .resume => 0x23
  | .forget => 0x30
  | .queryPeer => 0x31
  | .join => 0x38
  | .leave => 0x39
  | .goOnline => 0x40
  | .goListen => 0x41
  | .goLoop => 0x42
  | .goOffline => 0x43
  | .setAddress => 0x44
  | .clear => 0x4F
  | .clearCounters => 0x50

/-- The code of a result. -/
def cstCode : Cst → Byte
  | .ok => 0x00
  | .deferred => 0x01
  | .empty => 0x02
  | .noSlot => 0x03
  | .noMemory => 0x04
  | .badArgument => 0x05
  | .badState => 0x06
  | .tooLate => 0x07
  | .notFound => 0x08
  | .full => 0x09
  | .unknown => 0x0F

/-- The counter that a CNTSEL byte names (11.2, R201). -/
def counterOf (v : Byte) : Option Counter :=
  match v.toNat with
  | 0 => some .sent
  | 1 => some .lostContention
  | 2 => some .echoFault
  | 3 => some .received
  | 4 => some .damaged
  | 5 => some .stray
  | 6 => some .duplicate
  | 7 => some .dropped
  | _ => none

/-- The number of a counter (11.2). -/
def counterCode : Counter → Byte
  | .sent => 0
  | .lostContention => 1
  | .echoFault => 2
  | .received => 3
  | .damaged => 4
  | .stray => 5
  | .duplicate => 6
  | .dropped => 7

/-- The number of a station state (11.2). -/
def stationCode : Station → Nat
  | .offline => 0
  | .listen => 1
  | .online => 2
  | .silent => 3
  | .loop => 4

/-- The slot that a byte numbers: 00h to 0Fh (R202). -/
def slotIdOf (v : Byte) : Option SlotId :=
  if h : v.toNat < 16 then some ⟨v.toNat, h⟩ else none

/-- The window target that a WINSEL byte names: 00h to 10h (R201). -/
def winSelOf (v : Byte) : Option WinSel :=
  match slotIdOf v with
  | some n => some (.slot n)
  | none => if v = 0x10 then some .rxHead else none

/-- The byte that WINSEL reads (11.2). -/
def winSelCode : WinSel → Byte
  | .slot n => byteOf n.val
  | .rxHead => 0x10

/-- The message kind that the ALLOCATE kind byte names (R202). -/
def msgKindOf (v : Byte) : Option MsgKind :=
  match v.toNat with
  | 1 => some .data
  | 2 => some .datagram
  | _ => none

/-- The kind code of a message kind (11.4, 11.7). -/
def msgKindCode : MsgKind → Nat
  | .data => 1
  | .datagram => 2

/-- The code of an outcome (11.5). -/
def outcomeCode : SlotOutcome → Nat
  | .delivered => 1
  | .sent => 2
  | .aborted => 3
  | .failed => 4
  | .refused => 5

/-- The completion record (11.5). -/
def completionRecord (n : SlotId) (outcome : SlotOutcome) (sl : Slot) : Quad :=
  { b0 := byteOf (16 * outcomeCode outcome + n.val)
    b1 := byteOf (128 * flagBit sl.uncertain + 64 * flagBit sl.reason.isSome + sl.attempts)
    b2 := byteOf sl.busyCount
    b3 := sl.reason.getD 0 }

/-- Holdoff remaining in whole spans rounded up, 0 while remote busy is clear (R147, R153). -/
def holdoffSpans (p : Peer) : Nat :=
  match p.holdoff with
  | none => 0
  | some left => (left + Config.span - 1) / Config.span

/-- The peer record (11.6), for an entry at a place in the recency order. -/
def peerRecord (place : Nat) (p : Peer) : Quad :=
  { b0 := packFlags p.synced p.txSeq p.holdoff.isSome p.rxKnown (p.rxKnown && p.rxSeq)
      (p.rxKnown && p.rxResync) p.active false
    b1 := byteOf (holdoffSpans p)
    b2 := byteOf place
    b3 := byteOf p.node }

/-! ### The register map (11.1) -/

/-- The register at an offset; offsets 1Bh, 1Fh, 2Bh–2Fh and 33h–3Fh name none. -/
def registerAt (offset : BitVec 6) : Option Register :=
  match offset.toNat with
  | 0x00 => some .ident
  | 0x01 => some .version
  | 0x02 => some .cmd
  | 0x03 => some .cst
  | 0x04 => some (.arg 0)
  | 0x05 => some (.arg 1)
  | 0x06 => some (.arg 2)
  | 0x07 => some (.arg 3)
  | 0x08 => some (.res 0)
  | 0x09 => some (.res 1)
  | 0x0A => some (.res 2)
  | 0x0B => some (.res 3)
  | 0x0C => some .hstat
  | 0x0D => some .intid
  | 0x0E => some .inten
  | 0x0F => some .flow
  | 0x10 => some .stn0
  | 0x11 => some .stn1
  | 0x12 => some .rxstat0
  | 0x13 => some .rxstat1
  | 0x14 => some (.head 0)
  | 0x15 => some (.head 1)
  | 0x16 => some (.head 2)
  | 0x17 => some (.head 3)
  | 0x18 => some (.head 4)
  | 0x19 => some (.head 5)
  | 0x1A => some .freecnt
  | 0x1C => some .winsel
  | 0x1D => some .winofs
  | 0x1E => some .windata
  | 0x20 => some .divl
  | 0x21 => some .divh
  | 0x22 => some .hiwat
  | 0x23 => some .lowat
  | 0x24 => some .rxtrig
  | 0x25 => some .stale
  | 0x26 => some .retry
  | 0x27 => some .reserve
  | 0x28 => some .holdoff
  | 0x29 => some .faultlim
  | 0x2A => some .rxopt
  | 0x30 => some .cntsel
  | 0x31 => some .cntl
  | 0x32 => some .cnth
  | _ => none

/-- Does a write of this register have a row of its own in the table? (Not REGISTER_WRITE's.) -/
def Register.hasOwnWriteRow : Register → Bool
  | .cmd | .inten | .winsel | .winofs | .windata | .divl | .divh | .hiwat | .lowat | .rxtrig
  | .stale | .cntsel => true
  | _ => false

/-- The destination sort code of HEAD1 (11.4). -/
def destSortCode : DestSort → Nat
  | .own => 1
  | .group => 2
  | .broadcast => 3

/-- The tags of HEAD5, CRC_BAD at bit 0 (11.4). -/
def tagsByte (t : Tags) : Byte :=
  packFlags t.crcBad t.framing t.truncated t.adopted t.unanswered t.lossBefore false false

/-- HEAD0 to HEAD5 for an entry (11.4). -/
def headByte (e : Entry) (i : Fin 6) : Byte :=
  match i with
  | 0 => byteOf (128 + e.src)
  | 1 => byteOf (64 * destSortCode e.sort + e.dest)
  | 2 => byteOf (16 * msgKindCode e.kind + e.cls.toNat)
  | 3 => byteOf e.length
  | 4 => byteOf (e.declared.getD 0)
  | 5 => tagsByte e.tags

/-- Byte `i` of four. -/
def Quad.get (q : Quad) (i : Fin 4) : Byte :=
  match i with
  | 0 => q.b0
  | 1 => q.b1
  | 2 => q.b2
  | 3 => q.b3

/-- Byte `i` of four replaced. -/
def Quad.set (q : Quad) (i : Fin 4) (v : Byte) : Quad :=
  match i with
  | 0 => { q with b0 := v }
  | 1 => { q with b1 := v }
  | 2 => { q with b2 := v }
  | 3 => { q with b3 := v }

end Sys2Proof.Machine
end

