-- ==== Sys2Proof/Machine/Ops.lean ====
section
/-! DEFINITION. The shared operations over the blocks' data: counters, message memory, the block pool
(chapter 3), the slot table and class queues (chapter 4), and the peer table as a list (chapter 7). -/

namespace Sys2Proof.Machine

open Sys2Proof

/-! ### Event counters -/

/-- A 16-bit counter adds 1 and stops at 65535 (10.5). -/
def bump (w : Word) : Word := if w = 0xFFFF then w else w + 1

/-- The value of a counter. -/
def Counters.get (c : Counters) : Counter → Word
  | .sent => c.sent
  | .lostContention => c.lostContention
  | .echoFault => c.echoFault
  | .received => c.received
  | .damaged => c.damaged
  | .stray => c.stray
  | .duplicate => c.duplicate
  | .dropped => c.dropped

/-- One more event of a counter. -/
def Counters.count (c : Counters) : Counter → Counters
  | .sent => { c with sent := bump c.sent }
  | .lostContention => { c with lostContention := bump c.lostContention }
  | .echoFault => { c with echoFault := bump c.echoFault }
  | .received => { c with received := bump c.received }
  | .damaged => { c with damaged := bump c.damaged }
  | .stray => { c with stray := bump c.stray }
  | .duplicate => { c with duplicate := bump c.duplicate }
  | .dropped => { c with dropped := bump c.dropped }

/-- One more event of a counter, in the state. -/
def countEvent (k : Counter) (s : State) : State := { s with ctr := s.ctr.count k }

/-! ### Values for each class -/

/-- The value for a class. -/
def PerClass.get {α : Type} (p : PerClass α) : Class → α
  | .urgent => p.urgent
  | .control => p.control
  | .normal => p.normal
  | .bulk => p.bulk

/-- The value for a class replaced. -/
def PerClass.set {α : Type} (p : PerClass α) (c : Class) (a : α) : PerClass α :=
  match c with
  | .urgent => { p with urgent := a }
  | .control => { p with control := a }
  | .normal => { p with normal := a }
  | .bulk => { p with bulk := a }

/-- Every value changed by a function of its class. -/
def PerClass.mapWith {α : Type} (f : Class → α → α) (p : PerClass α) : PerClass α :=
  { urgent := f .urgent p.urgent, control := f .control p.control, normal := f .normal p.normal,
    bulk := f .bulk p.bulk }

/-! ### Message memory (R47) -/

/-- What a byte that the list does not name reads as: 00h, the power-up value (R47). -/
def Memory.unlisted : Byte := 0

/-- The byte at an address. -/
def Memory.read (mem : List Host.Cell) (a : Nat) : Byte :=
  match mem with
  | [] => Memory.unlisted
  | (k, v) :: rest => if k = a then v else Memory.read rest a

/-- A byte put in front of cells of higher addresses; a byte equal to the unlisted value is not
listed. -/
def Memory.cons (a : Nat) (v : Byte) (rest : List Host.Cell) : List Host.Cell :=
  if v = Memory.unlisted then rest else (a, v) :: rest

/-- The byte at an address replaced, every other byte kept. -/
def Memory.write (mem : List Host.Cell) (a : Nat) (v : Byte) : List Host.Cell :=
  match mem with
  | [] => Memory.cons a v []
  | (k, w) :: rest =>
    if a < k then Memory.cons a v ((k, w) :: rest)
    else if a = k then Memory.cons a v rest
    else (k, w) :: Memory.write rest a v

/-- The cells stand at rising addresses from `low` on, inside the memory, and none is 00h. -/
def Memory.wfFrom (low : Nat) (mem : List Host.Cell) : Bool :=
  match mem with
  | [] => true
  | (k, v) :: rest =>
    decide (low ≤ k) && decide (k < Config.memoryBytes) && decide (v ≠ Memory.unlisted)
      && Memory.wfFrom (k + 1) rest

/-- The canonical form of message memory. -/
def Memory.wf (mem : List Host.Cell) : Bool := Memory.wfFrom 0 mem

/-! ### The block pool (chapter 3) -/

/-- How many blocks a length needs: divided by 32 and rounded up (conventions 4.1). -/
def blocksFor (length : Nat) : Nat := (length + (Config.blockBytes - 1)) / Config.blockBytes

/-- FREECNT, the length of the free list (R49). -/
def freeCount (s : State) : Nat := s.bp.free.length

/-- The address of offset `k` of a message: block at chain position ⌊k/32⌋, byte k mod 32 (R51). -/
def messageAddress (chain : List Block) (k : Nat) : Option Nat :=
  (chain[k / Config.blockBytes]?).map fun b =>
    b.val * Config.blockBytes + k % Config.blockBytes

/-- The byte of a message at an offset (R51). -/
def messageByte (s : State) (chain : List Block) (k : Nat) : Option Byte :=
  (messageAddress chain k).map fun a => Memory.read s.bp.mem a

/-- The first `length` bytes of a message, offset 0 first, or none when one lies outside the chain. -/
def messageBytes (s : State) (chain : List Block) (length : Nat) : Option (List Byte) :=
  (List.range length).mapM fun k => messageByte s chain k

/-- A byte stored at an offset of a message (R51, R55). -/
def storeMessageByte (chain : List Block) (k : Nat) (v : Byte) (s : State) : Option State :=
  (messageAddress chain k).map fun a => { s with bp := { s.bp with mem := Memory.write s.bp.mem a v } }

/-- A claim takes the first `k` blocks of the free list (R49): the chain. -/
def claimedChain (s : State) (k : Nat) : List Block := s.bp.free.take k

/-- A claim takes the first `k` blocks of the free list (R49): what is left. -/
def claimBlocks (k : Nat) (s : State) : State :=
  { s with bp := { s.bp with free := s.bp.free.drop k } }

/-- A release appends a chain at the tail of the free list, in chain order (R49). -/
def releaseChain (chain : List Block) (s : State) : State :=
  { s with bp := { s.bp with free := s.bp.free ++ chain } }

/-! ### The slot table and the class queues (4.1, 4.3) -/

/-- The record of a slot; none while it is FREE. -/
def slotAt (s : State) (n : SlotId) : Option Slot := s.ts.slots[n]

/-- The record of a slot replaced; none makes it FREE. -/
def setSlot (n : SlotId) (r : Option Slot) (s : State) : State :=
  { s with ts := { s.ts with slots := s.ts.slots.set n r } }

/-- The record of a slot changed, if it has one. -/
def modifySlot (n : SlotId) (f : Slot → Slot) (s : State) : State :=
  setSlot n ((slotAt s n).map f) s

/-- The sixteen slot numbers, lowest first. -/
def allSlots : List SlotId := List.finRange 16

/-- The lowest-numbered FREE slot (R67). -/
def lowestFree (s : State) : Option SlotId := allSlots.find? fun n => (slotAt s n).isNone

/-- Is the slot in this state? -/
def slotIn (s : State) (p : SlotPhase) (n : SlotId) : Bool :=
  match slotAt s n with
  | none => false
  | some sl => decide (sl.phase = p)

/-- The record of a slot that is in this state; none when it is in another. -/
def slotWhen (s : State) (p : SlotPhase) (n : SlotId) : Option Slot :=
  (slotAt s n).filter fun sl => sl.phase = p

/-- The AWAITING slot, if there is one (R73: at most one). -/
def awaitingSlot (s : State) : Option SlotId := allSlots.find? (slotIn s .awaiting)

/-- A slot number appended at the tail of a class queue (R68). -/
def enqueueTail (c : Class) (n : SlotId) (s : State) : State :=
  { s with ts := { s.ts with queues := s.ts.queues.set c (s.ts.queues.get c ++ [n]) } }

/-- A slot number inserted at the front of a class queue (R69). -/
def enqueueFront (c : Class) (n : SlotId) (s : State) : State :=
  { s with ts := { s.ts with queues := s.ts.queues.set c (n :: s.ts.queues.get c) } }

/-- A slot number put directly behind those of `ahead` that stand at the head of a class queue
(R70). -/
def enqueueBehind (c : Class) (ahead : List SlotId) (n : SlotId) (s : State) : State :=
  let q := s.ts.queues.get c
  let front := q.takeWhile fun m => ahead.contains m
  { s with ts := { s.ts with queues := s.ts.queues.set c (front ++ n :: q.drop front.length) } }

/-- The slots that stand ahead of a slot in a class queue. -/
def aheadOf (s : State) (c : Class) (n : SlotId) : List SlotId :=
  (s.ts.queues.get c).takeWhile fun m => m ≠ n

/-- The slot leaves the places kept for a slot whose lead may be lost (R70: only those that still
stand in the queue count). -/
def BurstSource.forgetAhead (n : SlotId) : BurstSource → BurstSource
  | .slot m ahead => .slot m (ahead.filter fun k => k ≠ n)
  | src => src

/-- A slot number taken out of a class queue (R69). -/
def dequeue (c : Class) (n : SlotId) (s : State) : State :=
  { s with
    ts := { s.ts with queues := s.ts.queues.set c ((s.ts.queues.get c).filter fun m => m ≠ n) }
    lac := { s.lac with
      burst := s.lac.burst.map fun b => { b with source := b.source.forgetAhead n } } }

/-! ### The peer table as a list (7.1 to 7.3) -/

/-- The entry for a node. -/
def findPeer (ps : List Peer) (node : Nat) : Option Peer := ps.find? fun p => p.node == node

/-- Remote busy (R138). -/
def Peer.remoteBusy (p : Peer) : Bool := p.holdoff.isSome

/-- An entry is evictable when it is neither active nor remote busy (R139) and is not the one to be kept
(R144, log 29). -/
def Peer.evictable (keep : Option Nat) (p : Peer) : Bool :=
  !p.active && !p.remoteBusy && decide (keep ≠ some p.node)

/-- A new entry (R142, R143). -/
def newPeer (node : Nat) : Peer :=
  { node := node, synced := false, txSeq := false, holdoff := none, rxKnown := false, rxSeq := false,
    rxResync := false, active := false }

/-- The entry for a node changed, its place kept. -/
def modifyPeer (node : Nat) (f : Peer → Peer) (ps : List Peer) : List Peer :=
  ps.map fun p => if p.node = node then f p else p

/-- The entry for a node removed (R140: those behind it move forward). -/
def removePeer (node : Nat) (ps : List Peer) : List Peer := ps.filter fun p => p.node ≠ node

/-- The entry for a node moved to the front of the recency order (R140). -/
def touchPeer (node : Nat) (ps : List Peer) : List Peer :=
  match findPeer ps node with
  | none => ps
  | some p => p :: removePeer node ps

/-- The list without its evictable entry that stands furthest back; none when none is evictable
(R141). -/
def evictOne (keep : Option Nat) : List Peer → Option (List Peer)
  | [] => none
  | p :: rest =>
    match evictOne keep rest with
    | some rest' => some (p :: rest')
    | none => if p.evictable keep then some rest else none

/-- The table with room for one more entry: as it stands when it has a free place, else after an
eviction (R139, R141). -/
def makeRoom (keep : Option Nat) (ps : List Peer) : Option (List Peer) :=
  if ps.length < Config.peerCapacity then some ps else evictOne keep ps

/-- The table with an entry for the node: as it stands if it has one, else with a new entry at the
front; none when none can be created (R142, R143). -/
def ensurePeer (keep : Option Nat) (node : Nat) (ps : List Peer) : Option (List Peer) :=
  match findPeer ps node with
  | some _ => some ps
  | none => (makeRoom keep ps).map fun room => newPeer node :: room

/-- PT's answer to the eligibility test for a destination (R139): may a DATA slot to it be offered? -/
def peerAdmits (keep : Option Nat) (ps : List Peer) (node : Nat) : Bool :=
  match findPeer ps node with
  | some p => !p.remoteBusy
  | none => (makeRoom keep ps).isSome

/-- The node whose entry a receiver decision has created in the table's last place at this very moment: its
response order stands, and no bit-time has passed since that frame end. A presentation that reaches PT together
with the decision and is taken after it finds the place taken (R144, first row; DESIGN CHOICE, log 29). -/
def freshPeer (s : State) : Option Nat :=
  s.lac.order.bind fun o => if o.createdAt = some s.lac.quiet then some o.dest else none

/-- The state with PT's entry for a node changed. -/
def withPeer (node : Nat) (f : Peer → Peer) (s : State) : State :=
  { s with pt := modifyPeer node f s.pt }

/-! ### The host port (R188 to R190) -/

/-- The results of a command: CST and RES0 to RES3 (R189). -/
def answer (c : Cst) (r : Quad) (s : State) : State :=
  { s with hp := { s.hp with cst := c, res := r } }

/-- A refusal, or a command that names no result: RES0 to RES3 read 00h (R189). -/
def answerBare (c : Cst) (s : State) : State := answer c .zero s

/-- A command that names RES0 alone. -/
def answerByte (c : Cst) (v : Byte) (s : State) : State := answer c { Quad.zero with b0 := v } s

/-- The window refuses an access or a select or offset write (R190). -/
def raiseWindowError (s : State) : State := { s with hp := { s.hp with windowError := true } }

/-- A configuration write is refused (R190). -/
def raiseConfigError (s : State) : State := { s with hp := { s.hp with configError := true } }

end Sys2Proof.Machine
end

