-- ==== Sys2Proof/Machine/Scheduler.lean ====
section
/-! DEFINITION. The Transmit Scheduler's shared operations: eligibility and rank (R71 to R73), the
re-evaluation of the offer (R74, R75), and what the result of an attempt does to a slot and its peer
entry (R77 to R84, R149 to R152). -/

namespace Sys2Proof.Machine

open Sys2Proof

/-- May the station send: is it ONLINE or LOOP? -/
def Station.sends : Station → Bool
  | .online | .loop => true
  | _ => false

/-- Does the receiver run: is the station in a running state (8.1)? -/
def Station.runs : Station → Bool
  | .offline => false
  | _ => true

/-! ### Choosing the offer -/

/-- A slot is eligible (R71). -/
def eligible (s : State) (n : SlotId) : Bool :=
  match slotAt s n with
  | none => false
  | some sl =>
    (sl.phase == .queued || sl.phase == .offered) && s.sc.station.sends &&
      (match sl.kind with
        | .datagram => true
        | .data => peerAdmits (freshPeer s) s.pt sl.dest)

/-- The pending READY notice is eligible (R72). -/
def noticeEligible (s : State) : Bool :=
  s.sc.station.sends &&
    (match s.rq.notice with
      | none => false
      | some n => !n.committed)

/-- The first eligible slot of a class queue, front to back. -/
def firstEligible (s : State) (c : Class) : Option Offer :=
  ((s.ts.queues.get c).find? fun n => eligible s n).map .slot

/-- The first eligible candidate in the order of rank (R73). -/
def chooseOffer (s : State) : Option Offer :=
  firstEligible s .urgent
    <|> (if noticeEligible s then some .notice else none)
    <|> firstEligible s .control
    <|> firstEligible s .normal
    <|> firstEligible s .bulk

/-- Is a notice committed (R130)? -/
def noticeCommitted (s : State) : Bool :=
  match s.rq.notice with
  | none => false
  | some n => n.committed

/-- A slot is SENDING or AWAITING, or a notice is committed: TS holds no offer (R73). -/
def schedulerBusy (s : State) : Bool :=
  noticeCommitted s || allSlots.any fun n => slotIn s .sending n || slotIn s .awaiting n

/-- The active flag of the peer entry of a DATA slot is cleared (R145). -/
def clearActive (sl : Slot) (s : State) : State :=
  match sl.kind with
  | .datagram => s
  | .data => withPeer sl.dest (fun p => { p with active := false }) s

/-- The slot that was the offer goes back from OFFERED to QUEUED at its place, and LAC holds no offer
(R75). -/
def withdrawOffer (s : State) : State :=
  match s.lac.offer with
  | none => s
  | some .notice => { s with lac := { s.lac with offer := none } }
  | some (.slot n) =>
    let s1 : State := { s with lac := { s.lac with offer := none } }
    match slotWhen s .offered n with
    | none => s1
    | some sl => clearActive sl (setSlot n (some { sl with phase := .queued }) s1)

/-- The peer entry of a DATA slot that is presented: created if it is missing (R142). The entry of the
offer it replaces is still active, so it is not the one evicted (R75; DEDUCED, log 13). -/
def preparePeer (o : Offer) (s : State) : State :=
  match o with
  | .notice => s
  | .slot n =>
    match slotAt s n with
    | none => s
    | some sl =>
      match sl.kind with
      | .datagram => s
      | .data => { s with pt := (ensurePeer (freshPeer s) sl.dest s.pt).getD s.pt }

/-- A candidate becomes the offer (R75): a slot goes to OFFERED, and the peer entry of a DATA slot
moves to the front and becomes active. -/
def installOffer (o : Offer) (s : State) : State :=
  let s1 : State := { s with lac := { s.lac with offer := some o } }
  match o with
  | .notice => s1
  | .slot n =>
    match slotAt s n with
    | none => s1
    | some sl =>
      let s2 := setSlot n (some { sl with phase := .offered }) s1
      match sl.kind with
      | .datagram => s2
      | .data =>
        { s2 with pt := modifyPeer sl.dest (fun p => { p with active := true })
                          (touchPeer sl.dest s2.pt) }

/-- TS presents a candidate in place of the offer it holds, if any (R75). -/
def presentOffer (o : Offer) (s : State) : State :=
  installOffer o (withdrawOffer (preparePeer o s))

/-- A re-evaluation (R74). Nothing is presented while a slot is SENDING or AWAITING or a notice is
committed, nor while LAC is in RESPOND. -/
def reevaluate (s : State) : State :=
  if schedulerBusy s || s.lac.mode == .respond then s
  else
    match chooseOffer s with
    | none => withdrawOffer s
    | some o => if s.lac.offer = some o then s else presentOffer o s

/-! ### The end of a slot -/

/-- The entry becomes UNSYNCED with tx next seq toggled (R149). -/
def unsyncPeer (p : Peer) : Peer := { p with synced := false, txSeq := !p.txSeq }

/-- The slot stands in OFFERED, SENDING or AWAITING, the states that make its peer entry active
(R145). -/
def Slot.holdsPeer (sl : Slot) : Bool :=
  sl.phase == .offered || sl.phase == .sending || sl.phase == .awaiting

/-- PT's part of a slot's end (R84): active is cleared, and the peer becomes UNSYNCED when the outcome
is not DELIVERED and uncertain is set. -/
def reportEnd (outcome : SlotOutcome) (sl : Slot) (s : State) : State :=
  match sl.kind with
  | .datagram => s
  | .data =>
    let s1 := if sl.holdsPeer then clearActive sl s else s
    if sl.uncertain && outcome ≠ .delivered then withPeer sl.dest unsyncPeer s1 else s1

/-- A slot becomes DONE, without the re-evaluation (R84): its chain joins the free list and the slot
the completion list. `sl` is its record with the fields the outcome leaves. -/
def completeSlot (n : SlotId) (outcome : SlotOutcome) (sl : Slot) (s : State) : State :=
  let done : Slot := { sl with phase := .done outcome, chain := [], abortPending := false }
  let s1 := releaseChain sl.chain (setSlot n (some done) s)
  reportEnd outcome sl { s1 with ts := { s1.ts with completion := s1.ts.completion ++ [n] } }

/-- A slot goes back to the front of its class queue, without the re-evaluation (R69): QUEUED, its
chain kept, its peer entry no longer active. -/
def requeueFront (n : SlotId) (sl : Slot) (s : State) : State :=
  clearActive sl (enqueueFront sl.cls n (setSlot n (some { sl with phase := .queued }) s))

/-- After a counted attempt that delivered nothing: FAILED when attempts is greater than RETRY, else
back to the front of the class queue (R80, R82, R90). -/
def failOrRetry (n : SlotId) (sl : Slot) (s : State) : State :=
  if sl.attempts > s.cfg.retry then completeSlot n .failed sl s else requeueFront n sl s

/-- The AWAITING slot's window ends without a valid response, without the re-evaluation: the attempt is
counted and uncertain set (R80, R88, R90). -/
def endUnanswered (n : SlotId) (s : State) : State :=
  match slotWhen s .awaiting n with
  | none => s
  | some sl =>
    let sl1 := { sl with attempts := sl.attempts + 1, uncertain := true }
    if sl.abortPending then completeSlot n .aborted sl1 s else failOrRetry n sl1 s

/-- NO_RESPONSE, by the deadline or by a candidate that fails (R80). -/
def takeNoResponse (n : SlotId) (s : State) : State := reevaluate (endUnanswered n s)

/-- PT's part of a valid ACK (R151). -/
def ackPeer (node : Nat) (s : State) : State :=
  { s with pt := modifyPeer node (fun p => { p with synced := true, txSeq := !p.txSeq })
                  (touchPeer node s.pt) }

/-- A valid ACK (R151, R79). It toggles tx next seq also between two attempts of another slot to the same
node, whose retry then carries another SEQ, though R148 says that no event does so (DESIGN CHOICE,
log 30). -/
def takeAck (n : SlotId) (s : State) : State :=
  match slotWhen s .awaiting n with
  | none => s
  | some sl =>
    let sl1 := { sl with attempts := sl.attempts + 1, uncertain := false }
    reevaluate (completeSlot n .delivered sl1 (ackPeer sl.dest s))

/-- PT's part of a valid BUSY (R152): remote busy with a holdoff of HOLDOFF spans, and the flow
event. -/
def busyPeer (node : Nat) (s : State) : State :=
  { s with
    pt := modifyPeer node (fun p => { p with holdoff := some (s.cfg.holdoff * Config.span) })
            (touchPeer node s.pt)
    iu := { s.iu with flowBusy := true } }

/-- A valid BUSY (R152, R81). -/
def takeBusy (n : SlotId) (reason : Byte) (s : State) : State :=
  match slotWhen s .awaiting n with
  | none => s
  | some sl =>
    let sl1 := { sl with busyCount := sl.busyCount + 1, reason := some reason, uncertain := false }
    let s1 := busyPeer sl.dest s
    reevaluate
      (if sl.abortPending then completeSlot n .aborted sl1 s1
        else if sl1.busyCount ≥ Config.maxBusy then completeSlot n .refused sl1 s1
        else requeueFront n sl1 s1)

/-- An echo fault cut the frame of a SENDING slot, without the re-evaluation (R82). -/
def endEchoFault (n : SlotId) (s : State) : State :=
  match slotWhen s .sending n with
  | none => s
  | some sl => failOrRetry n { sl with attempts := sl.attempts + 1 } s

/-- A change of station state cut the frame of a SENDING slot (R90): no attempt is counted. -/
def endCut (n : SlotId) (s : State) : State :=
  match slotWhen s .sending n with
  | none => s
  | some sl => requeueFront n sl s

/-- ABORT of a SENDING slot, once its frame is cut (R87): DONE ABORTED, without the re-evaluation. -/
def endAborted (n : SlotId) (s : State) : State :=
  match slotWhen s .sending n with
  | none => s
  | some sl => completeSlot n .aborted sl s

/-- A peer is released from remote busy (R153, R154): the flow event, and a re-evaluation. -/
def releasePeer (node : Nat) (s : State) : State :=
  let s1 := withPeer node (fun p => { p with holdoff := none }) s
  reevaluate { s1 with iu := { s1.iu with flowReleased := true } }

end Sys2Proof.Machine
end

