-- ==== Sys2Proof/Machine/Queue.lean ====
section
/-! DEFINITION. The Receive Queue's shared operations (chapter 6): append, the change of the head, the
stale timer, congestion, the refused list, the READY notice and losses. -/

namespace Sys2Proof.Machine

open Sys2Proof

/-- The level: the number of entries (R115). -/
def level (s : State) : Nat := s.rq.entries.length

/-- The level lies above 0 and below RXTRIG (R122). -/
def staleRange (s : State) : Bool := decide (0 < level s) && decide (level s < s.cfg.rxtrig)

/-- After an append or RELEASE: RXSTALE is cleared, and the stale timer restarts at 0 or stops
(R122). -/
def restartStale (s : State) : State :=
  { s with rq := { s.rq with rxStale := false, stale := if staleRange s then some 0 else none } }

/-- After an RXTRIG write: the stale timer starts, stops or runs on (R122). -/
def judgeStale (s : State) : State :=
  let t := if staleRange s && !s.rq.rxStale then some (s.rq.stale.getD 0) else none
  { s with rq := { s.rq with stale := t } }

/-- The head of the queue has changed: while the window selects the RX head, its offset is set to 0
(R195). -/
def followHead (s : State) : State :=
  match s.hp.winSel with
  | .slot _ => s
  | .rxHead => { s with hp := { s.hp with winOfs := 0 } }

/-! ### The READY notice -/

/-- New contents merged into held ones (R129). -/
def Named.merge (held new : Named) : Named :=
  match held, new with
  | .all, _ => .all
  | .list _, .all => .all
  | .list a, .list b =>
    let merged := a ++ b.filter fun x => !a.contains x
    if merged.length > Config.listCapacity then .all else .list merged

/-- New contents reach a held notice: merged while it is not committed, else into its deferred part
(R129, R130). -/
def Notice.add (n : Notice) (new : Named) : Notice :=
  if n.committed then
    { n with deferred := some (match n.deferred with
        | none => new
        | some d => d.merge new) }
  else { n with contents := n.contents.merge new }

/-- The notice returns to pending with its deferred part merged (R131). -/
def Notice.revert (n : Notice) : Notice :=
  { contents := match n.deferred with
      | none => n.contents
      | some d => n.contents.merge d
    committed := false
    deferred := none }

/-- What remains of a committed notice that was sent completely (R131). -/
def Notice.afterSent (n : Notice) : Option Notice :=
  match n.contents, n.deferred with
  | .all, _ => none
  | .list _, none => none
  | .list _, some .all => some { contents := .all, committed := false, deferred := none }
  | .list sent, some (.list d) =>
    match d.filter fun x => !sent.contains x with
    | [] => none
    | rest => some { contents := .list rest, committed := false, deferred := none }

/-- The contents that a build takes from the refused list; none when nobody was refused (R128). -/
def buildContents (s : State) : Option Named :=
  if s.rq.overflow then some .all
  else if s.rq.refused.isEmpty then none
  else some (.list s.rq.refused)

/-- The station has become neither congested nor paused: a READY notice is built or merged from the
refused list, which is emptied (R128). -/
def buildNotice (s : State) : State :=
  match buildContents s with
  | none => s
  | some new =>
    let notice := match s.rq.notice with
      | none => { contents := new, committed := false, deferred := none }
      | some n => n.add new
    reevaluate
      { s with rq := { s.rq with refused := [], overflow := false, notice := some notice } }

/-- The committed notice returns to pending (R131). -/
def revertNotice (s : State) : State :=
  { s with rq := { s.rq with notice := s.rq.notice.map .revert } }

/-! ### Congestion (6.5) -/

/-- Congestion is entered (R124). -/
def enterCongestion (s : State) : State :=
  { s with
    rq := { s.rq with congested := true }
    iu := { s.iu with flowEntered := true } }

/-- Congestion is left, and R128 applies if paused is clear (R124). -/
def leaveCongestion (s : State) : State :=
  let s1 : State := { s with
    rq := { s.rq with congested := false }
    iu := { s.iu with flowLeft := true } }
  if s1.rq.paused then s1 else buildNotice s1

/-- The test at an append (R124). -/
def testEntry (s : State) : State :=
  if !s.rq.congested && decide (level s ≥ s.cfg.hiwat) then enterCongestion s else s

/-- The test at RELEASE and FLUSH (R124). -/
def testExit (s : State) : State :=
  if s.rq.congested && decide (level s ≤ s.cfg.lowat) then leaveCongestion s else s

/-- The test after a taken water-mark write (R125). -/
def testMarks (s : State) : State :=
  if s.rq.congested then testExit s else testEntry s

/-! ### Append, refusal, loss -/

/-- An entry is placed at the tail (R117). -/
def appendEntry (e : Entry) (s : State) : State :=
  let e1 : Entry := { e with tags := { e.tags with lossBefore := s.rq.loss } }
  let s1 : State := { s with rq := { s.rq with entries := s.rq.entries ++ [e1], loss := false } }
  let s2 := if s.rq.entries.isEmpty then followHead s1 else s1
  testEntry (restartStale s2)

/-- A source refused with BUSY PAUSED or BUSY QUEUE joins the refused list, or sets overflow (R127). -/
def refuseSource (src : Nat) (s : State) : State :=
  if s.rq.refused.contains src then s
  else if s.rq.refused.length < Config.listCapacity then
    { s with rq := { s.rq with refused := s.rq.refused ++ [src] } }
  else { s with rq := { s.rq with overflow := true } }

/-- A loss report (R132). -/
def reportLoss (s : State) : State :=
  countEvent .dropped { s with rq := { s.rq with drop := true, loss := true } }

end Sys2Proof.Machine
end

