-- ==== Sys2Proof/Machine/Receiver.lean ====
section
/-! DEFINITION. The Frame Receiver's shared operations (chapter 5) and the Peer Table's part in them
(chapter 7): the header, acceptance, the claim, the end of a reception, the response candidate, the
receiver decision and READY notices. -/

namespace Sys2Proof.Machine

open Sys2Proof

/-- How a reception ends (R106). -/
inductive Ending where
  | good | badCheck | framing | truncated | malformed
  deriving DecidableEq, Repr

/-- The record replaced. -/
def setRecord (r : Rx) (s : State) : State := { s with fr := { s.fr with record := some r } }

/-- A start bit opens a frame (R98): FR enters HEADER with a new record. -/
def openRecord (candidate : Bool) (s : State) : State :=
  { s with fr := { s.fr with
      mode := .header, guard := false, record := some { Rx.empty with candidate := candidate } } }

/-- The reception in progress is abandoned (R61, R112): its chain is released, and nothing is counted
or handed on. -/
def abandonReception (s : State) : State :=
  match s.fr.record with
  | none => s
  | some r => releaseChain r.chain { s with fr := { s.fr with record := none } }

/-- FR enters RECOVER (R96), with no reception in progress. -/
def enterRecover (s : State) : State :=
  let s1 := abandonReception s
  { s1 with fr := { s1.fr with mode := .recover, guard := false } }

/-! ### The response candidate (7.7) -/

/-- A failed candidate is taken as NO_RESPONSE (R109, R150). -/
def failCandidate (s : State) : State :=
  match awaitingSlot s with
  | none => s
  | some n => takeNoResponse n s

/-- The validity rules for a good ACK or BUSY (R150). -/
def validResponse (s : State) (sl : Slot) (r : Rx) : Bool :=
  decide (r.src = sl.dest) && decide (s.sc.address = some r.dest)
    && (r.kind ≠ .ack || r.seq == sl.sentSeq)

/-- PT judges a good ACK or BUSY that is the candidate (R150 to R152). -/
def judgeCandidate (r : Rx) (s : State) : State :=
  match awaitingSlot s with
  | none => s
  | some n =>
    match slotAt s n with
    | none => s
    | some sl =>
      if validResponse s sl r then
        match r.kind with
        | .ack => takeAck n s
        | _ => takeBusy n r.reason s
      else takeNoResponse n s

/-- The candidate report at the end of a reception that carries the mark (R106, R109). -/
def reportCandidate (how : Ending) (r : Rx) (s : State) : State :=
  if how = .good && (r.kind == .ack || r.kind == .busy) then judgeCandidate r s else failCandidate s

/-! ### The receiver decision (7.9) -/

/-- The duplicate test (R158). -/
def isDuplicate (p : Peer) (r : Rx) : Bool :=
  p.rxKnown && p.rxSeq == r.seq && (!r.resync || p.rxResync)

/-- PT gives LAC a response order (R36): it carries the frame's SEQ to the frame's source. -/
def orderResponse (k : ResponseKind) (reason : Byte) (r : Rx) (s : State) : State :=
  { s with lac := { s.lac with
      order := some { kind := k, reason := reason, seq := r.seq, dest := r.src, createdAt := none } } }

/-- Has the table one free place and no evictable entry (R144, first row)? -/
def lastPlace (ps : List Peer) : Bool :=
  ps.length + 1 == Config.peerCapacity && (evictOne none ps).isNone

/-- The response order tells whether its decision has created the entry of the source in the last place at this
moment (R143, R144; log 29). -/
def stampCreated (last : Bool) (s : State) : State :=
  { s with lac := { s.lac with
      order := s.lac.order.map fun o => { o with createdAt := if last then some s.lac.quiet else none } } }

/-- The entry that a reception becomes, before its chain and LOSS_BEFORE (R107, R108, R159). -/
def entryOf (r : Rx) (sort : DestSort) (length : Nat) (declared : Option Nat) (t : Tags) : Entry :=
  { src := r.src, dest := r.dest, sort := sort, cls := r.cls,
    kind := if r.kind = .data then .data else .datagram,
    length := length, declared := declared, tags := t, chain := [] }

/-- The chain goes to the entry as far as its length needs it, the rest to the free list (R56), and the
entry is appended (R117). -/
def keepEntry (e : Entry) (chain : List Block) (s : State) : State :=
  let k := blocksFor e.length
  appendEntry { e with chain := chain.take k } (releaseChain (chain.drop k) s)

/-- The frame is delivered: row 6 (R159). -/
def deliver (p : Peer) (r : Rx) (s : State) : State :=
  let s1 := withPeer r.src
    (fun q => { q with rxKnown := true, rxSeq := r.seq, rxResync := r.resync }) s
  let t := { Tags.none with adopted := !p.rxKnown && !r.resync }
  orderResponse .ack 0 r (keepEntry (entryOf r .own r.length none t) r.chain s1)

/-- The rows of the decision table below the first, for the source's entry (R157). -/
def decideRow (p : Peer) (r : Rx) (s : State) : State :=
  if isDuplicate p r then
    orderResponse .ack 0 r (releaseChain r.chain (countEvent .duplicate s))
  else if s.rq.paused then
    orderResponse .busy reasonPaused r (releaseChain r.chain (refuseSource r.src s))
  else if s.rq.congested then
    orderResponse .busy reasonQueue r (releaseChain r.chain (refuseSource r.src s))
  else if r.claim ≠ .succeeded then
    orderResponse .busy reasonMemory r (releaseChain r.chain (reportLoss s))
  else deliver p r s

/-- The receiver decision on a good DATA frame addressed to this node (R156, R157): with the source's entry
moved to the front, or created there (R143), or refused with BUSY NO_PEER. -/
def decideData (r : Rx) (s : State) : State :=
  match findPeer s.pt r.src with
  | some p => decideRow p r { s with pt := touchPeer r.src s.pt }
  | none =>
    match makeRoom none s.pt with
    | none => orderResponse .busy reasonNoPeer r (releaseChain r.chain s)
    | some room =>
      stampCreated (lastPlace s.pt) (decideRow (newPeer r.src) r { s with pt := newPeer r.src :: room })

/-! ### READY notices -/

/-- A good READY frame (R154). -/
def takeReady (r : Rx) (s : State) : State :=
  let named := r.list.isEmpty || (match s.sc.address with
    | none => false
    | some a => r.list.any fun b => b.toNat == a)
  match findPeer s.pt r.src with
  | none => s
  | some p => if p.remoteBusy && named then releasePeer r.src s else s

/-! ### The end of a reception (5.8) -/

/-- The station hears but does not answer: LISTEN or SILENT. -/
def Station.onlyHears : Station → Bool
  | .listen | .silent => true
  | _ => false

/-- Is this a DATA frame kept while the station is LISTEN or SILENT (R107, R108)? -/
def unansweredTag (r : Rx) (s : State) : Bool := r.kind == .data && s.sc.station.onlyHears

/-- A good frame goes to the Receive Queue on a successful claim, and is a loss otherwise (R108,
R110). -/
def queueGood (r : Rx) (sort : DestSort) (s : State) : State :=
  if r.claim = .succeeded then
    keepEntry (entryOf r sort r.length none { Tags.none with unanswered := unansweredTag r s }) r.chain s
  else reportLoss (releaseChain r.chain s)

/-- A good frame is handed on by its kind and the station state (R108). -/
def dealGood (r : Rx) (s : State) : State :=
  match r.kind with
  | .ack => s
  | .busy => s
  | .ready => takeReady r s
  | .data =>
    match r.accepted with
    | none => releaseChain r.chain s
    | some sort =>
      let s1 := countEvent .received s
      if s1.sc.station.sends then decideData r s1 else queueGood r sort s1
  | .datagram =>
    match r.accepted with
    | none => releaseChain r.chain s
    | some sort => queueGood r sort (countEvent .received s)

/-- The damage tag of an ending (R107). -/
def damageTags (how : Ending) (r : Rx) (s : State) : Tags :=
  { Tags.none with
    crcBad := how == .badCheck, framing := how == .framing, truncated := how == .truncated,
    unanswered := unansweredTag r s }

/-- A damaged or malformed frame: DAMAGED adds 1, and the frame is kept under keep-damaged when its
claim succeeded, else its chain is released (R100, R107). `mode` is the receiver state it ended in. -/
def dealDamaged (how : Ending) (mode : FrMode) (r : Rx) (s : State) : State :=
  let s1 := countEvent .damaged s
  let length := if mode = .check then r.length else r.received
  let declared := if how = .truncated then some r.length else none
  match r.accepted with
  | some sort =>
    if s.cfg.keepDamaged && r.claim == .succeeded && how ≠ .malformed then
      keepEntry (entryOf r sort length declared (damageTags how r s)) r.chain s1
    else releaseChain r.chain s1
  | none => releaseChain r.chain s1

/-- FR after an ending (R106): HUNT with the gap guard set unless the count already stands at 4 (R95),
HUNT with it clear after a truncation, RECOVER after lost framing. -/
def afterEnding (how : Ending) (s : State) : State :=
  let mode := match how with
    | .good | .badCheck | .truncated => FrMode.hunt
    | .framing | .malformed => FrMode.recover
  let guard := match how with
    | .good | .badCheck => decide (s.lac.quiet < Config.responseGap)
    | _ => false
  { s with fr := { s.fr with mode := mode, guard := guard, record := none } }

/-- LAC leaves RECEIVE for QUIET when the frame has ended (R21). -/
def leaveReceive (s : State) : State :=
  if s.lac.mode = .receive then { s with lac := { s.lac with mode := .quiet } } else s

/-- The end of a reception: FR and LAC move on, the candidate is reported, the frame is dealt with
(R106), and LAC's return to QUIET causes a re-evaluation (R21, R74). -/
def endReception (how : Ending) (s : State) : State :=
  match s.fr.record with
  | none => s
  | some r =>
    let s1 := leaveReceive (afterEnding how s)
    let s2 := if r.candidate then reportCandidate how r s1 else s1
    let s3 := if how = .good then dealGood r s2 else dealDamaged how s.fr.mode r s2
    if s.lac.mode = .receive then reevaluate s3 else s3

/-! ### Characters (5.4 to 5.7) -/

/-- Acceptance of a DATA or DATAGRAM frame at DEST (R101). -/
def acceptance (s : State) (d : Nat) : Option DestSort :=
  if d ≤ Config.maxNode then (if s.sc.address = some d then some .own else none)
  else if d ≤ Config.maxGroup then (if s.fr.groups.contains d then some .group else none)
  else if s.cfg.broadcastAccept then some .broadcast else none

/-- May a frame of this kind carry this DEST (R16)? -/
def destAllowed (k : Kind) (d : Nat) : Bool :=
  match k with
  | .data | .ack | .busy => decide (d ≤ Config.maxNode)
  | .datagram => decide (d ≤ Config.broadcast)
  | .ready => decide (d = Config.broadcast)

/-- LEAD (R100). -/
def takeLead (b : Byte) (r : Rx) (s : State) : State :=
  let src := b.toNat % 64
  if src > Config.maxNode then endReception .malformed s
  else setRecord { r with cls := classOf (b.toNat / 64), src := src } s

/-- CONTROL (R100, R203). -/
def takeControl (b : Byte) (r : Rx) (s : State) : State :=
  match kindOf (b.toNat / 16) with
  | none => endReception .malformed s
  | some k => setRecord { r with kind := k, seq := b.getLsbD 0, resync := b.getLsbD 1 } s

/-- DEST, with the acceptance decision (R100, R101). -/
def takeDest (b : Byte) (r : Rx) (s : State) : State :=
  if destAllowed r.kind b.toNat then
    let acc := match r.kind with
      | .data | .datagram => acceptance s b.toNat
      | _ => none
    setRecord { r with dest := b.toNat, accepted := acc } s
  else endReception .malformed s

/-- FR in BODY, or in CHECK when no character of BODY is to come (R104, R105). -/
def enterBody (length : Nat) (s : State) : State :=
  { s with fr := { s.fr with mode := if length = 0 then .check else .body } }

/-- The reception claim of an accepted frame (R54, R104). -/
def claimReception (r : Rx) (s : State) : State :=
  let k := blocksFor r.length
  if k ≤ freeCount s ∧ level s < Config.queueCapacity then
    setRecord { r with claim := .succeeded, chain := claimedChain s k } (claimBlocks k s)
  else setRecord { r with claim := .failed } s

/-- The fourth character: LENGTH, or REASON of ACK and BUSY (R100, R104, R105). -/
def takeFourth (b : Byte) (r : Rx) (s : State) : State :=
  match r.kind with
  | .ack | .busy =>
    let s1 := setRecord { r with reason := b } s
    { s1 with fr := { s1.fr with mode := .check } }
  | .ready =>
    if b.toNat > Config.listCapacity then endReception .malformed s
    else enterBody b.toNat (setRecord { r with length := b.toNat } s)
  | .data | .datagram =>
    if b.toNat > Config.maxLength then endReception .malformed s
    else
      let r1 := { r with length := b.toNat }
      match r.accepted with
      | none => enterBody b.toNat (setRecord r1 s)
      | some _ => enterBody b.toNat (claimReception r1 s)

/-- A header character: the character count names its field (R100). `r` already counts it. -/
def takeHeader (b : Byte) (r : Rx) (s : State) : State :=
  match r.count with
  | 1 => takeLead b r s
  | 2 => takeControl b r s
  | 3 => takeDest b r s
  | _ => takeFourth b r s

/-- FR in CHECK once the last character of BODY has completed (R105). -/
def bodyDone (r : Rx) (s : State) : State :=
  if r.count ≥ r.length + 4 then { s with fr := { s.fr with mode := .check } } else s

/-- A payload or list character (R105); none when its offset lies outside the claimed chain. -/
def takeBody (b : Byte) (r : Rx) (s : State) : Option State :=
  match r.kind with
  | .ready => some (bodyDone r (setRecord { r with list := r.list ++ [b] } s))
  | _ =>
    if r.claim = .succeeded then
      (storeMessageByte r.chain r.received b s).map fun s1 =>
        bodyDone r (setRecord { r with received := r.received + 1 } s1)
    else some (bodyDone r (setRecord r s))

/-- A CHECK character: the second one is the frame end, and the check is compared (R105, R106). -/
def takeCheck (b : Byte) (r : Rx) (s : State) : State :=
  let first := match r.kind with
    | .ack | .busy => 5
    | _ => r.length + 5
  if r.count ≤ first then setRecord { r with checkHigh := b } s
  else endReception (if checkChars r.crc = [r.checkHigh, b] then .good else .badCheck) s

/-- A character completes with a recessive stop bit (R99): it is counted, it enters the check register
unless it is a CHECK character, and it is used as the next field. None when a payload byte would lie
outside the claimed chain. -/
def takeComplete (b : Byte) (r : Rx) (s : State) : Option State :=
  let counted := { r with count := r.count + 1, leadBits := [], inChar := false }
  let covered := { counted with crc := crcByte r.crc b }
  match s.fr.mode with
  | .header => some (takeHeader b covered (setRecord covered s))
  | .body => takeBody b covered (setRecord covered s)
  | .check => some (takeCheck b counted (setRecord counted s))
  | _ => some s

/-- The byte that a character carries when LAC has passed on the first bits of a lost lead (R97): those
bits, completed from the line. -/
def completedByte (leadBits : List LineBit) (b : Byte) : Byte :=
  byteOfBits (leadBits ++ (dataBits b).drop leadBits.length)

/-- A character of the frame being received arrives (R99): a dominant stop bit is a framing error. The
quiet count is what the character's bits leave (R5). -/
def takeCharacter (b : Byte) (stop : LineBit) (r : Rx) (s : State) : Option State :=
  let byte := completedByte r.leadBits b
  let s1 : State := { s with lac := { s.lac with quiet := quietAtStop byte stop } }
  match stop with
  | .dominant => some (endReception .framing s1)
  | .recessive => takeComplete byte r s1

end Sys2Proof.Machine
end

