-- ==== Sys2Proof/Machine/LineAccess.lean ====
section
/-! DEFINITION. The Line Access Controller's shared operations (chapter 2): thresholds and demotion,
marks of the quiet count, the frame LAC forms, and the cuts. -/

namespace Sys2Proof.Machine

open Sys2Proof

/-- LAC drives the line or the internal path (R41). -/
def LacMode.drives : LacMode → Bool
  | .contend | .send | .respond => true
  | _ => false

/-! ### Demotion and thresholds (2.3) -/

/-- The class an offer carries: the slot's, or class 1 for the notice (R25). -/
def offerClass (s : State) (o : Offer) : Class :=
  match o with
  | .notice => .control
  | .slot n =>
    match slotAt s n with
    | none => .bulk
    | some sl => sl.cls

/-- The contention threshold of a class as its flag stands (R23). -/
def threshold (s : State) (c : Class) : Nat :=
  if s.lac.demoted.get c then Config.demotedThreshold c else Config.baseThreshold c

/-- A class's demotion flag becomes demoted (R23). -/
def demote (c : Class) (s : State) : State :=
  { s with lac := { s.lac with demoted := s.lac.demoted.set c true } }

/-- Every flag whose demoted threshold the quiet count has reached returns to normal (R24). -/
def clearReachedDemotions (s : State) : State :=
  { s with lac := { s.lac with
      demoted := s.lac.demoted.mapWith fun c d => d && decide (s.lac.quiet < Config.demotedThreshold c) } }

/-! ### Marks of the quiet count (1.5) -/

/-- FR's marks of a quiet count (R95, R96): in HUNT the gap guard is clear from 4 on, and RECOVER ends in
HUNT with the guard clear from 11 on. -/
def Fr.atQuiet (q : Nat) (fr : Fr) : Fr :=
  match fr.mode with
  | .hunt => if q ≥ Config.responseGap then { fr with guard := false } else fr
  | .recover => if q ≥ Config.gapLimit then { fr with mode := .hunt, guard := false } else fr
  | _ => fr

/-- The quiet count has reached `n`: it stands at `n` or more, and FR's marks up to it have had their
effects. -/
def reachQuiet (n : Nat) (s : State) : State :=
  let q := max s.lac.quiet n
  { s with lac := { s.lac with quiet := q }, fr := s.fr.atQuiet q }

/-- A dominant bit of another station (R5, R37): the quiet count restarts, and a response order not yet
begun is cancelled. -/
def otherDominant (s : State) : State :=
  { s with lac := { s.lac with quiet := 0, order := none } }

/-! ### Forming frames (R31, R37) -/

/-- The SEQ and RESYNC of a DATA frame, from the peer entry (R148). -/
def peerSequence (p : Peer) : Bool × Bool := (p.txSeq, !p.synced)

/-- The SEQ that a slot's frame carries: the peer entry's tx next seq for DATA, 0 for DATAGRAM. -/
def slotSeq (s : State) (sl : Slot) : Bool :=
  match sl.kind with
  | .datagram => false
  | .data =>
    match findPeer s.pt sl.dest with
    | none => false
    | some p => (peerSequence p).1

/-- The characters of a slot's frame (R31). -/
def slotFrame (s : State) (src : Nat) (sl : Slot) : Except Fault (List Byte) :=
  match messageBytes s sl.chain sl.length with
  | none => .error .outsideChain
  | some payload =>
    match sl.kind with
    | .datagram => .ok (messageChars src sl false false payload)
    | .data =>
      match findPeer s.pt sl.dest with
      | none => .error .noFrameSource
      | some p => .ok (messageChars src sl (peerSequence p).1 (peerSequence p).2 payload)

/-- The characters of the frame that an offer commits (R31). -/
def offerFrame (s : State) (o : Offer) : Except Fault (List Byte) :=
  match s.sc.address with
  | none => .error .noFrameSource
  | some src =>
    match o with
    | .notice =>
      match s.rq.notice with
      | none => .error .noFrameSource
      | some n => .ok (readyChars src n.contents)
    | .slot n =>
      match slotWhen s .offered n with
      | none => .error .noFrameSource
      | some sl => slotFrame s src sl

/-- LAC begins to drive a frame (R26, R37). In LOOP the frame goes on the internal path (R174). -/
def startBurst (mode : LacMode) (source : BurstSource) (chars : List Byte) (s : State) : State :=
  { s with lac := { s.lac with
      mode := mode
      burst := some { source := source, chars := chars, bits := 0 }
      path := if s.sc.station = .loop then chars else [] } }

/-- In LOOP, FR takes the start bit that LAC drives on the internal path (R113, R39): it opens a record,
which is the candidate of an open response window. -/
def ownStartBit (s : State) : State :=
  if s.sc.station = .loop && s.fr.mode == .hunt then
    let s1 := openRecord s.lac.window.isSome s
    { s1 with lac := { s1.lac with window := none } }
  else s

/-- The offer is committed (R76): a slot goes to SENDING and leaves its class queue, the notice becomes
the one LAC is contending for. `chars` is the frame formed from it. -/
def commitOffer (o : Offer) (chars : List Byte) (s : State) : State :=
  let s1 : State := { s with lac := { s.lac with offer := none } }
  match o with
  | .notice =>
    startBurst .contend .notice chars
      { s1 with rq := { s1.rq with notice := s1.rq.notice.map fun n => { n with committed := true } } }
  | .slot n =>
    match slotWhen s .offered n with
    | none => s1
    | some sl =>
      let ahead := aheadOf s sl.cls n
      let sl1 := { sl with phase := .sending, sentSeq := slotSeq s sl }
      startBurst .contend (.slot n ahead) chars (dequeue sl.cls n (setSlot n (some sl1) s1))

/-! ### The end of driving -/

/-- LAC stops driving and holds no frame. -/
def stopBurst (mode : LacMode) (s : State) : State :=
  { s with lac := { s.lac with mode := mode, burst := none } }

/-- FR learns that a frame of this station has ended (R97): in ONLINE its gap guard is set unless the
count already stands at 4 (R95). In LOOP FR has received the frame itself (R113). -/
def ownFrameEnd (s : State) : State :=
  if s.sc.station = .loop then s
  else { s with fr := { s.fr with guard := decide (s.lac.quiet < Config.responseGap) } }

/-- The quiet count at the end of the frame LAC drives (R5, R32). -/
def quietAtEnd (b : Burst) : Nat := quietAtStop (b.chars.getLastD 0xFF) .recessive

/-- The consecutive fault count rises by 1 and stops at 15 (R34). -/
def countFault (s : State) : State :=
  { s with lac := { s.lac with faults := min Config.maxFaults (s.lac.faults + 1) } }

/-- The consecutive fault count returns to 0 (R34). -/
def clearFaults (s : State) : State := { s with lac := { s.lac with faults := 0 } }

/-- The frame being driven is cut by ABORT (R35): LAC enters QUIET and FR RECOVER (R97). In LOOP FR
takes the cut as a truncation and then enters RECOVER (R113). -/
def cutByAbort (s : State) : State :=
  let s1 := stopBurst .quiet { s with lac := { s.lac with path := [] } }
  if !s.lac.mode.drives then s
  else if s.sc.station = .loop then
    let s2 := endReception .truncated s1
    { s2 with fr := { s2.fr with mode := .recover, guard := false } }
  else enterRecover s1

end Sys2Proof.Machine
end

