-- ==== Sys2Proof/Machine/StationControl.lean ====
section
/-! DEFINITION. Station Control's shared operations (chapter 8): entering a running state, leaving
ONLINE or LOOP, SILENT entry, CLEAR and hardware reset. -/

namespace Sys2Proof.Machine

open Sys2Proof

/-- The station state replaced. -/
def setStation (t : Station) (s : State) : State := { s with sc := { s.sc with station := t } }

/-- OFFLINE to a running state (R94, R20): LAC in QUIET with the quiet count at 0, FR in RECOVER. -/
def enterRunning (t : Station) (s : State) : State :=
  let s1 := setStation t s
  { s1 with
    lac := { s1.lac with mode := .quiet, quiet := 0 }
    fr := { s1.fr with mode := .recover, guard := false } }

/-- The slot whose frame LAC drives is cut (R90). -/
def cutSlot (s : State) : State :=
  match s.lac.burst with
  | some { source := .slot n _, .. } => endCut n s
  | _ => s

/-- The window of the AWAITING slot closes unanswered (R90). -/
def closeWindow (s : State) : State :=
  match awaitingSlot s with
  | none => s
  | some n => endUnanswered n s

/-- A committed notice returns to pending (R131). -/
def returnNotice (s : State) : State := if noticeCommitted s then revertNotice s else s

/-- TS on leaving ONLINE or LOOP (R90): the offer is dropped, a cut slot goes to the front of its
queue, the window of an AWAITING slot is closed unanswered, a committed notice returns to pending. -/
def stopScheduler (s : State) : State := returnNotice (closeWindow (cutSlot (withdrawOffer s)))

/-- FR on leaving ONLINE or LOOP (R97, R112): abandoned when the new state is OFFLINE or the old one
LOOP; after a cut frame of its own in RECOVER; otherwise the reception goes on without its mark. -/
def stopReceiver (old target : Station) (driving : Bool) (s : State) : State :=
  if target = .offline then
    let s1 := abandonReception s
    { s1 with fr := { s1.fr with mode := .off, guard := false } }
  else if old = .loop then
    let s1 := abandonReception s
    { s1 with fr := { s1.fr with mode := .recover, guard := false } }
  else if driving then enterRecover s
  else { s with fr := { s.fr with
    record := s.fr.record.map fun r => { r with candidate := false } } }

/-- LAC on leaving ONLINE or LOOP (R43, R22). -/
def stopLac (old target : Station) (s : State) : State :=
  let mode := if target = .offline then LacMode.offline
    else if old = .online && s.lac.mode == .receive then .receive
    else .quiet
  let quiet := if target = .offline || old == .loop then 0 else s.lac.quiet
  { s with lac := { s.lac with
      mode := mode, quiet := quiet, demoted := .all false, order := none, window := none,
      burst := none, path := [] } }

/-- The station leaves ONLINE or LOOP for another state (R171). -/
def leaveLine (target : Station) (s : State) : State :=
  let old := s.sc.station
  let s1 := stopScheduler (setStation target s)
  stopLac old target (stopReceiver old target s.lac.burst.isSome s1)

/-- A running state that does not send, LISTEN or SILENT, to OFFLINE (R168, R112). -/
def stopHearing (s : State) : State :=
  let s1 := abandonReception (setStation .offline s)
  { s1 with
    fr := { s1.fr with mode := .off, guard := false }
    lac := { s1.lac with mode := .offline, quiet := 0 } }

/-- SILENT entry (R169, R170). -/
def enterSilent (s : State) : State :=
  let s1 := leaveLine .silent s
  { s1 with sc := { s1.sc with faultEvent := true } }

/-- CLEAR's effect on the blocks (R176): every block at the values its chapter gives for CLEAR. -/
def clearBlocks (s : State) : State :=
  { s with
    lac := .reset
    ts := .reset
    bp := { s.bp with free := Bp.fullList }
    fr := { s.fr with mode := .off, guard := false, record := none }
    rq := .reset
    pt := []
    sc := { s.sc with station := .offline, faultEvent := false }
    iu := { Iu.reset with inten := s.iu.inten }
    hp := { s.hp with windowError := false, configError := false, winOfs := 0 } }

/-- Every block at its hardware reset values (R177); message memory and the waiting commands stay. -/
def hardwareReset (low : Bool) (s : State) : State :=
  { State.reset with
    bp := { State.reset.bp with mem := s.bp.mem }
    resetLow := low
    pending := s.pending }

end Sys2Proof.Machine
end

