-- ==== Sys2Proof/Machine/Flags.lean ====
section
/-! DEFINITION. The views the part shows: interrupt causes, INTID and INT# (chapter 9), the pins LTX
and LDIR (R1, R41), and the contents of every register byte (R188, chapter 11). None of them is
stored. -/

namespace Sys2Proof.Machine

open Sys2Proof

/-- The interrupt causes, highest priority first (R178). -/
inductive Cause where
  | fault | drop | rxReady | rxStale | txDone | flow
  deriving DecidableEq, Repr

/-- The causes in order of priority (R178). -/
def Cause.byPriority : List Cause := [.fault, .drop, .rxReady, .rxStale, .txDone, .flow]

/-- The priority number, which is also the code of INTID (R178, 11.2). -/
def Cause.priority : Cause → Nat
  | .fault => 1
  | .drop => 2
  | .rxReady => 3
  | .rxStale => 4
  | .txDone => 5
  | .flow => 6

/-- Is the cause pending (R178)? -/
def causePending (s : State) : Cause → Bool
  | .fault => s.sc.faultEvent
  | .drop => s.rq.drop
  | .rxReady => decide (level s ≥ s.cfg.rxtrig)
  | .rxStale => s.rq.rxStale
  | .txDone => !s.ts.completion.isEmpty
  | .flow => s.iu.flowEntered || s.iu.flowLeft || s.iu.flowBusy || s.iu.flowReleased

/-- Is the cause enabled (R179)? INTEN bit 0 is FAULT, bit 5 is FLOW. -/
def causeEnabled (s : State) (c : Cause) : Bool := s.iu.inten.getLsbD (c.priority - 1)

/-- The cause that INTID names (R180). -/
def namedCause (s : State) : Option Cause :=
  Cause.byPriority.find? fun c => causePending s c && causeEnabled s c

/-- INT# is asserted (R181). While RESET# is low it is released (R200). -/
def intAsserted (s : State) : Bool :=
  !s.resetLow && Cause.byPriority.any fun c => causePending s c && causeEnabled s c

/-- LDIR is asserted (R41): only in ONLINE while LAC drives. -/
def ldirAsserted (s : State) : Bool :=
  !s.resetLow && s.sc.station == .online && s.lac.mode.drives

/-- LTX is high (R1, R41): low only for a dominant bit sent while LDIR is asserted. -/
def ltxHigh (s : State) : Bool :=
  if ldirAsserted s then
    match s.lac.burst with
    | none => true
    | some b => frameBit b.chars b.bits == .recessive
  else true

/-- STN byte 0 (11.2). -/
def stnByte0 (s : State) : Byte :=
  byteOf (stationCode s.sc.station + 128 * flagBit s.sc.faultEvent)

/-- STN byte 1 (11.2). -/
def stnByte1 (s : State) : Byte :=
  match s.sc.address with
  | none => 0
  | some a => byteOf (128 + a)

/-- RXSTAT byte 1 (11.2). -/
def rxstatByte1 (s : State) : Byte :=
  packFlags s.rq.congested s.rq.paused false false false false false s.rq.drop

/-- FLOW (11.2). -/
def flowByte (s : State) : Byte :=
  packFlags s.iu.flowEntered s.iu.flowLeft s.iu.flowBusy s.iu.flowReleased false false false false

/-- HSTAT (11.2). -/
def hstatByte (s : State) : Byte :=
  packFlags s.hp.windowError s.hp.configError false false false false false false

/-- The value of the selected counter (R197). -/
def selectedCounter (s : State) : Word := s.ctr.get s.hp.cntSel

/-! ### The memory window (10.4) -/

/-- May a WINDATA read reach a slot in this state (R194)? -/
def SlotPhase.readable : SlotPhase → Bool
  | .done _ => false
  | _ => true

/-- The chain that a WINDATA read reaches at the window offset, or none when the read is refused
(R194). -/
def windowReadChain (s : State) : Option (List Block) :=
  match s.hp.winSel with
  | .slot n =>
    match slotAt s n with
    | none => none
    | some sl =>
      if sl.phase.readable && decide (s.hp.winOfs < sl.length) then some sl.chain else none
  | .rxHead =>
    match s.rq.entries with
    | [] => none
    | e :: _ => if s.hp.winOfs < e.length then some e.chain else none

/-- The chain that a WINDATA write reaches at the window offset, or none when the write is refused
(R194). -/
def windowWriteChain (s : State) : Option (List Block) :=
  match s.hp.winSel with
  | .rxHead => none
  | .slot n =>
    match slotAt s n with
    | none => none
    | some sl =>
      if sl.phase = .loading ∧ s.hp.winOfs < sl.length then some sl.chain else none

/-- The offset steps on by one, up to 240 (R194). -/
def stepWindow (s : State) : State :=
  { s with hp := { s.hp with winOfs := min Config.maxLength (s.hp.winOfs + 1) } }

/-- The byte that a WINDATA read at the offset returns, 00h where it is refused (R194). -/
def windataByte (s : State) : Byte :=
  match windowReadChain s with
  | none => 0
  | some chain => (messageByte s chain s.hp.winOfs).getD 0

/-! ### Register contents -/

/-- The contents of a register as they stand (R188). The side effects of the reads that have one are
the meanings of their rows. -/
def registerContents (s : State) : Register → Byte
  | .ident => 0x6C
  | .version => 0x02
  | .cmd => s.hp.cmd
  | .cst => cstCode s.hp.cst
  | .arg i => s.hp.args.get i
  | .res i => s.hp.res.get i
  | .hstat => hstatByte s
  | .intid =>
    match namedCause s with
    | none => 0
    | some c => byteOf c.priority
  | .inten => s.iu.inten.zeroExtend 8
  | .flow => flowByte s
  | .stn0 => stnByte0 s
  | .stn1 => stnByte1 s
  | .rxstat0 => byteOf (level s)
  | .rxstat1 => rxstatByte1 s
  | .head i =>
    match s.rq.entries with
    | [] => 0
    | e :: _ => headByte e i
  | .freecnt => byteOf (freeCount s)
  | .winsel => winSelCode s.hp.winSel
  | .winofs => byteOf s.hp.winOfs
  | .windata => windataByte s
  | .divl => byteOf s.cfg.div
  | .divh => byteOf (s.cfg.div / 256)
  | .hiwat => byteOf s.cfg.hiwat
  | .lowat => byteOf s.cfg.lowat
  | .rxtrig => byteOf s.cfg.rxtrig
  | .stale => byteOf s.cfg.stale
  | .retry => byteOf s.cfg.retry
  | .reserve => byteOf s.cfg.reserve
  | .holdoff => byteOf s.cfg.holdoff
  | .faultlim => byteOf s.cfg.faultlim
  | .rxopt => packFlags s.cfg.broadcastAccept s.cfg.keepDamaged false false false false false false
  | .cntsel => counterCode s.hp.cntSel
  | .cntl => (selectedCounter s).extractLsb' 0 8
  | .cnth => s.hp.latch.extractLsb' 8 8

/-- The byte that a read of an offset returns: 00h where the offset names no register (R188), and 00h
while RESET# is low (R200). -/
def registerByte (s : State) (offset : BitVec 6) : Byte :=
  if s.resetLow then 0
  else
    match registerAt offset with
    | none => 0
    | some r => registerContents s r

end Sys2Proof.Machine
end

