-- ==== Sys2Proof/Machine/QueueCommands.lean ====
section
/-! DEFINITION. The bodies of the commands of the Receive Queue, the Peer Table and the Frame Receiver:
RELEASE, FLUSH, PAUSE, RESUME (chapter 6), FORGET, QUERY_PEER (chapter 7), JOIN, LEAVE (chapter 5). -/

namespace Sys2Proof.Machine

open Sys2Proof

/-- RELEASE (R119, R195). -/
def releaseBody (s : State) : State :=
  match s.rq.entries with
  | [] => answerBare .empty s
  | e :: rest =>
    let s1 := releaseChain e.chain { s with rq := { s.rq with entries := rest } }
    answerByte .ok (byteOf rest.length) (testExit (restartStale (followHead s1)))

/-- The blocks of the entries' chains, oldest entry first (R58). -/
def entryBlocks (es : List Entry) : List Block := es.flatMap fun e => e.chain

/-- FLUSH (R120, R195). A FLUSH of a queue that is already empty changes no head, and leaves the window's
offset as it stands (DESIGN CHOICE, log 31). -/
def flushBody (s : State) : State :=
  let removed := s.rq.entries
  let s1 := releaseChain (entryBlocks removed)
    { s with rq := { s.rq with entries := [], rxStale := false, stale := none } }
  let s2 := if removed.isEmpty then s1 else followHead s1
  answerByte .ok (byteOf removed.length) (testExit s2)

/-- PAUSE (R126). -/
def pauseBody (s : State) : State :=
  answerBare .ok { s with rq := { s.rq with paused := true } }

/-- RESUME (R126): when it clears paused while congested is clear, R128 applies. -/
def resumeBody (s : State) : State :=
  let s1 : State := { s with rq := { s.rq with paused := false } }
  answerBare .ok (if s.rq.paused && !s.rq.congested then buildNotice s1 else s1)

/-- FORGET (R146). -/
def forgetBody (s : State) : State :=
  let node := s.hp.args.b0.toNat
  if node > Config.maxNode then answerBare .badArgument s
  else
    match findPeer s.pt node with
    | none => answerBare .notFound s
    | some p =>
      if p.active then answerBare .badState s
      else
        let s1 : State := { s with pt := removePeer node s.pt }
        answerBare .ok
          (if p.remoteBusy then reevaluate { s1 with iu := { s1.iu with flowReleased := true } } else s1)

/-- QUERY_PEER (R147). -/
def queryPeerBody (s : State) : State :=
  let node := s.hp.args.b0.toNat
  if node > Config.maxNode then answerBare .badArgument s
  else
    match findPeer s.pt node with
    | none => answerBare .notFound s
    | some p => answer .ok (peerRecord (s.pt.findIdx fun q => q.node == node) p) s

/-- Is the byte a group address (R202)? -/
def isGroup (g : Nat) : Bool := decide (Config.maxNode < g) && decide (g ≤ Config.maxGroup)

/-- The result of JOIN and LEAVE: RES0 is the list's length whatever CST reads (R102). -/
def answerGroups (c : Cst) (s : State) : State := answerByte c (byteOf s.fr.groups.length) s

/-- The group list replaced. -/
def setGroups (gs : List Nat) (s : State) : State := { s with fr := { s.fr with groups := gs } }

/-- JOIN (R102). -/
def joinBody (s : State) : State :=
  let g := s.hp.args.b0.toNat
  if !isGroup g then answerGroups .badArgument s
  else if s.fr.groups.contains g then answerGroups .ok s
  else if s.fr.groups.length ≥ Config.groupCapacity then answerGroups .full s
  else answerGroups .ok (setGroups (s.fr.groups ++ [g]) s)

/-- LEAVE (R102). -/
def leaveBody (s : State) : State :=
  let g := s.hp.args.b0.toNat
  if !isGroup g then answerGroups .badArgument s
  else if !s.fr.groups.contains g then answerGroups .notFound s
  else answerGroups .ok (setGroups (s.fr.groups.filter fun x => x ≠ g) s)

end Sys2Proof.Machine
end

