-- ==== Sys2Proof/Machine/StationCommands.lean ====
section
/-! DEFINITION. The bodies of the commands of Station Control and of CLEAR_COUNTERS (chapter 8,
R198). -/

namespace Sys2Proof.Machine

open Sys2Proof

/-- GO_ONLINE's change of state, by the state it finds (R165). -/
def goOnlineChange (s : State) : State :=
  match s.sc.station with
  | .offline => enterRunning .online s
  | .listen => setStation .online s
  | .silent => setStation .online s
  | .online => s
  | .loop => leaveLine .online s

/-- GO_ONLINE (R165). -/
def goOnlineBody (s : State) : State :=
  match s.sc.address with
  | none => answerBare .badState s
  | some _ => answerBare .ok (reevaluate (goOnlineChange (clearFaults s)))

/-- GO_LISTEN (R166). -/
def goListenBody (s : State) : State :=
  answerBare .ok
    (match s.sc.station with
      | .offline => enterRunning .listen s
      | .listen => s
      | .silent => setStation .listen s
      | .online => leaveLine .listen s
      | .loop => leaveLine .listen s)

/-- GO_LOOP (R167). -/
def goLoopBody (s : State) : State :=
  match s.sc.station, s.sc.address with
  | .offline, some _ => answerBare .ok (reevaluate (enterRunning .loop s))
  | _, _ => answerBare .badState s

/-- The READY notice is discarded (R131, R168). -/
def discardNotice (s : State) : State := { s with rq := { s.rq with notice := none } }

/-- GO_OFFLINE (R168). -/
def goOfflineBody (s : State) : State :=
  answerBare .ok (discardNotice
    (match s.sc.station with
      | .offline => s
      | .listen => stopHearing s
      | .silent => stopHearing s
      | .online => leaveLine .offline s
      | .loop => leaveLine .offline s))

/-- The node address that a SET_ADDRESS byte gives: absent for FFh; none when the byte is refused
(R202). -/
def addressOf (v : Byte) : Option (Option Nat) :=
  if v = 0xFF then some none
  else if v.toNat ≤ Config.maxNode then some (some v.toNat)
  else none

/-- SET_ADDRESS (R164): the argument is tested before the state. -/
def setAddressBody (s : State) : State :=
  match addressOf s.hp.args.b0 with
  | none => answerBare .badArgument s
  | some a =>
    if s.sc.station = .offline then answerBare .ok { s with sc := { s.sc with address := a } }
    else answerBare .badState s

/-- CLEAR (R176, R199). -/
def clearBody (s : State) : State := answerBare .ok (clearBlocks s)

/-- CLEAR_COUNTERS (R198). -/
def clearCountersBody (s : State) : State := answerBare .ok { s with ctr := .zero }

end Sys2Proof.Machine
end

