-- ==== Sys2Proof/Machine/TransmitCommands.lean ====
section
/-! DEFINITION. The bodies of the commands of the Transmit Scheduler: ALLOCATE, SUBMIT, ABORT and
COLLECT (chapter 4). A body is taken whole at the end of the write strobe to CMD (R189). -/

namespace Sys2Proof.Machine

open Sys2Proof

/-- The argument test of ALLOCATE (R66): kind, length, class, destination. -/
def allocateArguments (a : Quad) : Option (MsgKind × Class) :=
  match msgKindOf a.b3 with
  | none => none
  | some k =>
    if a.b0.toNat > Config.maxLength ∨ a.b1.toNat > 3 ∨ a.b2.toNat > Config.broadcast
        ∨ (k = .data ∧ a.b2.toNat > Config.maxNode) then none
    else some (k, classOf a.b1.toNat)

/-- The record of a slot that ALLOCATE takes (R67). -/
def loadedSlot (k : MsgKind) (c : Class) (dest length : Nat) (chain : List Block) : Slot :=
  { phase := .loading, kind := k, cls := c, dest := dest, length := length, chain := chain,
    attempts := 0, busyCount := 0, reason := none, uncertain := false, abortPending := false,
    sentSeq := false }

/-- ALLOCATE (R66, R67) with the pool's reserve test (R52). -/
def allocateBody (s : State) : State :=
  let a := s.hp.args
  match allocateArguments a with
  | none => answerBare .badArgument s
  | some (k, c) =>
    match lowestFree s with
    | none => answerBare .noSlot s
    | some n =>
      let needed := blocksFor a.b0.toNat
      if freeCount s < needed + s.cfg.reserve then answerBare .noMemory s
      else
        let sl := loadedSlot k c a.b2.toNat a.b0.toNat (claimedChain s needed)
        answerByte .ok (byteOf n.val) (setSlot n (some sl) (claimBlocks needed s))

/-- SUBMIT (R68). -/
def submitBody (s : State) : State :=
  match slotIdOf s.hp.args.b0 with
  | none => answerBare .badArgument s
  | some n =>
    match slotAt s n with
    | none => answerBare .badState s
    | some sl =>
      if sl.phase ≠ .loading then answerBare .badState s
      else
        let sl1 := { sl with
          phase := .queued, attempts := 0, busyCount := 0, reason := none, uncertain := false,
          abortPending := false }
        answerBare .ok (reevaluate (enqueueTail sl.cls n (setSlot n (some sl1) s)))

/-- ABORT of a slot that has a record, by its state (R87). Every ABORT that changes a slot re-evaluates
(R74). -/
def abortSlot (n : SlotId) (sl : Slot) (s : State) : State :=
  match sl.phase with
  | .loading => answerBare .ok (reevaluate (releaseChain sl.chain (setSlot n none s)))
  | .queued => answerBare .ok (reevaluate (completeSlot n .aborted sl (dequeue sl.cls n s)))
  | .offered =>
    let s1 : State := { s with lac := { s.lac with offer := none } }
    answerBare .ok (reevaluate (completeSlot n .aborted sl (dequeue sl.cls n s1)))
  | .sending => answerBare .ok (reevaluate (endAborted n (cutByAbort s)))
  | .awaiting => answerBare .deferred (setSlot n (some { sl with abortPending := true }) s)
  | .done _ => answerBare .tooLate s

/-- ABORT (R87). -/
def abortBody (s : State) : State :=
  match slotIdOf s.hp.args.b0 with
  | none => answerBare .badArgument s
  | some n =>
    match slotAt s n with
    | none => answerBare .badState s
    | some sl => abortSlot n sl s

/-- The outcome of DONE. -/
def SlotPhase.outcome : SlotPhase → Option SlotOutcome
  | .done o => some o
  | _ => none

/-- The outcome and the record of a slot that is DONE. -/
def collectable (s : State) (n : SlotId) : Option (SlotOutcome × Slot) :=
  match slotAt s n with
  | none => none
  | some sl => sl.phase.outcome.map fun o => (o, sl)

/-- COLLECT (R86): the oldest completion record. -/
def collectBody (s : State) : State :=
  match s.ts.completion with
  | [] => answerBare .empty s
  | n :: rest =>
    let s1 : State := { s with ts := { s.ts with completion := rest } }
    match collectable s n with
    | none => answerBare .empty s1
    | some (o, sl) => answer .ok (completionRecord n o sl) (setSlot n none s1)

end Sys2Proof.Machine
end

