-- ==== Sys2Proof/Machine/HostCommands.lean ====
section
/-! DEFINITION. The command mechanism (R189, R190) and the meanings of the rows that are commands
through CMD. -/

namespace Sys2Proof.Machine

open Sys2Proof

/-- A host access: taken, unless RESET# is low (R200). -/
def hostAccess (f : State → State) (s : State) : Host.Outcome State Fault Refusal :=
  .next (if s.resetLow then s else f s)

/-- The code of a command is recorded as the last command code (R189). -/
def recordCode (code : Byte) (s : State) : State := { s with hp := { s.hp with cmd := code } }

/-- The body of each command, in the block that owns it (10.2). -/
def commandBody (c : HostCommand) (s : State) : State :=
  match c with
  | .allocate => allocateBody s
  | .submit => submitBody s
  | .abort => abortBody s
  | .collect => collectBody s
  | .release => releaseBody s
  | .flush => flushBody s
  | .pause => pauseBody s
  | .resume => resumeBody s
  | .forget => forgetBody s
  | .queryPeer => queryPeerBody s
  | .join => joinBody s
  | .leave => leaveBody s
  | .goOnline => goOnlineBody s
  | .goListen => goListenBody s
  | .goLoop => goLoopBody s
  | .goOffline => goOfflineBody s
  | .setAddress => setAddressBody s
  | .clear => clearBody s
  | .clearCounters => clearCountersBody s

/-- A write of a code to CMD (R189, R190): a code that names no command gives UNKNOWN. -/
def writeCmd (code : Byte) (s : State) : State :=
  match commandOf code with
  | none => answerBare .unknown (recordCode code s)
  | some c => commandBody c (recordCode code s)

/-- ALLOCATE (R67). -/
def execAllocate (s : State) : Host.Outcome State Fault Refusal :=
  hostAccess (fun t => allocateBody (recordCode 0x10 t)) s

/-- SUBMIT (R68). -/
def execSubmit (s : State) : Host.Outcome State Fault Refusal :=
  hostAccess (fun t => submitBody (recordCode 0x11 t)) s

/-- ABORT (R87). -/
def execAbort (s : State) : Host.Outcome State Fault Refusal :=
  hostAccess (fun t => abortBody (recordCode 0x12 t)) s

/-- COLLECT (R86). -/
def execCollect (s : State) : Host.Outcome State Fault Refusal :=
  hostAccess (fun t => collectBody (recordCode 0x13 t)) s

/-- RELEASE (R119). -/
def execRelease (s : State) : Host.Outcome State Fault Refusal :=
  hostAccess (fun t => releaseBody (recordCode 0x20 t)) s

/-- FLUSH (R120). -/
def execFlush (s : State) : Host.Outcome State Fault Refusal :=
  hostAccess (fun t => flushBody (recordCode 0x21 t)) s

/-- PAUSE (R126). -/
def execPause (s : State) : Host.Outcome State Fault Refusal :=
  hostAccess (fun t => pauseBody (recordCode 0x22 t)) s

/-- RESUME (R126). -/
def execResume (s : State) : Host.Outcome State Fault Refusal :=
  hostAccess (fun t => resumeBody (recordCode 0x23 t)) s

/-- FORGET (R146). -/
def execForget (s : State) : Host.Outcome State Fault Refusal :=
  hostAccess (fun t => forgetBody (recordCode 0x30 t)) s

/-- QUERY_PEER (R147). -/
def execQueryPeer (s : State) : Host.Outcome State Fault Refusal :=
  hostAccess (fun t => queryPeerBody (recordCode 0x31 t)) s

/-- JOIN (R102). -/
def execJoin (s : State) : Host.Outcome State Fault Refusal :=
  hostAccess (fun t => joinBody (recordCode 0x38 t)) s

/-- LEAVE (R102). -/
def execLeave (s : State) : Host.Outcome State Fault Refusal :=
  hostAccess (fun t => leaveBody (recordCode 0x39 t)) s

/-- GO_ONLINE (R165). -/
def execGoOnline (s : State) : Host.Outcome State Fault Refusal :=
  hostAccess (fun t => goOnlineBody (recordCode 0x40 t)) s

/-- GO_LISTEN (R166). -/
def execGoListen (s : State) : Host.Outcome State Fault Refusal :=
  hostAccess (fun t => goListenBody (recordCode 0x41 t)) s

/-- GO_LOOP (R167). -/
def execGoLoop (s : State) : Host.Outcome State Fault Refusal :=
  hostAccess (fun t => goLoopBody (recordCode 0x42 t)) s

/-- GO_OFFLINE (R168). -/
def execGoOffline (s : State) : Host.Outcome State Fault Refusal :=
  hostAccess (fun t => goOfflineBody (recordCode 0x43 t)) s

/-- SET_ADDRESS (R164). -/
def execSetAddress (s : State) : Host.Outcome State Fault Refusal :=
  hostAccess (fun t => setAddressBody (recordCode 0x44 t)) s

/-- CLEAR (R176). -/
def execClear (s : State) : Host.Outcome State Fault Refusal :=
  hostAccess (fun t => clearBody (recordCode 0x4F t)) s

/-- CLEAR_COUNTERS (R198). -/
def execClearCounters (s : State) : Host.Outcome State Fault Refusal :=
  hostAccess (fun t => clearCountersBody (recordCode 0x50 t)) s

/-- UNKNOWN_COMMAND (R190). A code that does name a command is that command's write (DEDUCED, log 9). -/
def execUnknownCommand (code : Byte) (s : State) : Host.Outcome State Fault Refusal :=
  hostAccess (fun t => writeCmd code t) s

end Sys2Proof.Machine
end

