-- ==== Sys2Proof/Machine/RegisterAccess.lean ====
section
/-! DEFINITION. The meanings of the rows that read or write registers: the reads with a side effect,
the window, the configuration and selector writes, and REGISTER_WRITE (chapters 9, 10 and 11). -/

namespace Sys2Proof.Machine

open Sys2Proof

/-! ### Reads -/

/-- The byte that a read drives on the data lines (R188). -/
def drive (v : Byte) (s : State) : State := { s with hp := { s.hp with dataOut := v } }

/-- A host read: while RESET# is low it returns 00h and has no side effect (R200). -/
def hostRead (f : State → State) (s : State) : Host.Outcome State Fault Refusal :=
  .next (if s.resetLow then drive 0 s else f s)

/-- A read of STN byte 0 (R182). -/
def readStn (s : State) : State :=
  let s1 := drive (stnByte0 s) s
  { s1 with sc := { s1.sc with faultEvent := false } }

/-- A read of RXSTAT byte 1 (R183). -/
def readRxstat (s : State) : State :=
  let s1 := drive (rxstatByte1 s) s
  { s1 with rq := { s1.rq with drop := false } }

/-- A read of FLOW (R185). -/
def readFlow (s : State) : State :=
  let s1 := drive (flowByte s) s
  { s1 with iu := { s1.iu with
      flowEntered := false, flowLeft := false, flowBusy := false, flowReleased := false } }

/-- A read of HSTAT (R190). -/
def readHstat (s : State) : State :=
  let s1 := drive (hstatByte s) s
  { s1 with hp := { s1.hp with windowError := false, configError := false } }

/-- A read of CNTL (R197). -/
def readCntl (s : State) : State :=
  let s1 := drive ((selectedCounter s).extractLsb' 0 8) s
  { s1 with hp := { s1.hp with latch := selectedCounter s } }

/-- STN_READ (R182). -/
def execStnRead (s : State) : Host.Outcome State Fault Refusal := hostRead readStn s

/-- RXSTAT_READ (R183). -/
def execRxstatRead (s : State) : Host.Outcome State Fault Refusal := hostRead readRxstat s

/-- FLOW_READ (R185). -/
def execFlowRead (s : State) : Host.Outcome State Fault Refusal := hostRead readFlow s

/-- HSTAT_READ (R190). -/
def execHstatRead (s : State) : Host.Outcome State Fault Refusal := hostRead readHstat s

/-- CNTL_READ (R197). -/
def execCntlRead (s : State) : Host.Outcome State Fault Refusal := hostRead readCntl s

/-! ### The window data port -/

/-- A WINDATA read (R194). -/
def readWindata (s : State) : Host.Outcome State Fault Refusal :=
  match windowReadChain s with
  | none => .next (stepWindow (raiseWindowError (drive 0 s)))
  | some chain =>
    match messageByte s chain s.hp.winOfs with
    | none => .fault .outsideChain
    | some v => .next (stepWindow (drive v s))

/-- A WINDATA write (R194). -/
def writeWindata (v : Byte) (s : State) : Host.Outcome State Fault Refusal :=
  match windowWriteChain s with
  | none => .next (stepWindow (raiseWindowError s))
  | some chain =>
    match storeMessageByte chain s.hp.winOfs v s with
    | none => .fault .outsideChain
    | some s1 => .next (stepWindow s1)

/-- WINDATA_READ (R194). -/
def execWindataRead (s : State) : Host.Outcome State Fault Refusal :=
  if s.resetLow then .next (drive 0 s) else readWindata s

/-- WINDATA_WRITE (R194). -/
def execWindataWrite (value : Byte) (s : State) : Host.Outcome State Fault Refusal :=
  if s.resetLow then .next s else writeWindata value s

/-! ### Writes -/

/-- A write of WINSEL (R193). -/
def writeWinsel (v : Byte) (s : State) : State :=
  match winSelOf v with
  | none => raiseWindowError s
  | some w => { s with hp := { s.hp with winSel := w, winOfs := 0 } }

/-- A write of WINOFS (R193). -/
def writeWinofs (v : Byte) (s : State) : State :=
  if v.toNat < Config.maxLength then { s with hp := { s.hp with winOfs := v.toNat } }
  else raiseWindowError s

/-- A write of CNTSEL (R196). -/
def writeCntsel (v : Byte) (s : State) : State :=
  match counterOf v with
  | none => raiseConfigError s
  | some c => { s with hp := { s.hp with cntSel := c } }

/-- A write of INTEN (R179, R201): the bits outside its six enables are not stored. -/
def writeInten (v : Byte) (s : State) : State :=
  { s with iu := { s.iu with inten := v.extractLsb' 0 6 } }

/-- A write of DIVL (R192). -/
def writeDivl (v : Byte) (s : State) : State := { s with hp := { s.hp with divLow := v } }

/-- The value that a DIVH write forms (R192). -/
def divValue (s : State) (v : Byte) : Nat := v.toNat * 256 + s.hp.divLow.toNat

/-- A write of DIVH (R192). -/
def writeDivh (v : Byte) (s : State) : State :=
  if s.sc.station = .offline ∧ 1 ≤ divValue s v ∧ divValue s v ≤ 4095 then
    { s with cfg := { s.cfg with div := divValue s v } }
  else raiseConfigError s

/-- A write of HIWAT (R125). -/
def writeHiwat (v : Byte) (s : State) : State :=
  if 1 ≤ v.toNat ∧ v.toNat ≤ 24 ∧ s.cfg.lowat < v.toNat then
    testMarks { s with cfg := { s.cfg with hiwat := v.toNat } }
  else raiseConfigError s

/-- A write of LOWAT (R125). -/
def writeLowat (v : Byte) (s : State) : State :=
  if v.toNat ≤ 23 ∧ v.toNat < s.cfg.hiwat then
    testMarks { s with cfg := { s.cfg with lowat := v.toNat } }
  else raiseConfigError s

/-- A write of RXTRIG (R121, R122). -/
def writeRxtrig (v : Byte) (s : State) : State :=
  if 1 ≤ v.toNat ∧ v.toNat ≤ 24 then
    judgeStale { s with cfg := { s.cfg with rxtrig := v.toNat } }
  else raiseConfigError s

/-- A write of STALE (R123). -/
def writeStale (v : Byte) (s : State) : State :=
  if 1 ≤ v.toNat then { s with cfg := { s.cfg with stale := v.toNat } } else raiseConfigError s

/-- A write of RETRY (R83). -/
def writeRetry (v : Byte) (s : State) : State :=
  if v.toNat ≤ 7 then { s with cfg := { s.cfg with retry := v.toNat } } else raiseConfigError s

/-- A write of RESERVE (R53). -/
def writeReserve (v : Byte) (s : State) : State :=
  if v.toNat ≤ 64 then { s with cfg := { s.cfg with reserve := v.toNat } } else raiseConfigError s

/-- A write of HOLDOFF (R153). -/
def writeHoldoff (v : Byte) (s : State) : State :=
  if 1 ≤ v.toNat then { s with cfg := { s.cfg with holdoff := v.toNat } } else raiseConfigError s

/-- A write of FAULTLIM (R34). -/
def writeFaultlim (v : Byte) (s : State) : State :=
  if 1 ≤ v.toNat ∧ v.toNat ≤ 15 then { s with cfg := { s.cfg with faultlim := v.toNat } }
  else raiseConfigError s

/-- A write of RXOPT (R103, R201): the bits outside its two options are not stored. -/
def writeRxopt (v : Byte) (s : State) : State :=
  { s with cfg := { s.cfg with broadcastAccept := v.getLsbD 0, keepDamaged := v.getLsbD 1 } }

/-- A write of ARG0 to ARG3 (R189). -/
def writeArg (i : Fin 4) (v : Byte) (s : State) : State :=
  { s with hp := { s.hp with args := s.hp.args.set i v } }

/-- A write of a register, by its kind (R188): a read-only register ignores it. -/
def writeRegister (r : Register) (v : Byte) (s : State) : Host.Outcome State Fault Refusal :=
  match r with
  | .cmd => .next (writeCmd v s)
  | .arg i => .next (writeArg i v s)
  | .inten => .next (writeInten v s)
  | .winsel => .next (writeWinsel v s)
  | .winofs => .next (writeWinofs v s)
  | .windata => writeWindata v s
  | .divl => .next (writeDivl v s)
  | .divh => .next (writeDivh v s)
  | .hiwat => .next (writeHiwat v s)
  | .lowat => .next (writeLowat v s)
  | .rxtrig => .next (writeRxtrig v s)
  | .stale => .next (writeStale v s)
  | .retry => .next (writeRetry v s)
  | .reserve => .next (writeReserve v s)
  | .holdoff => .next (writeHoldoff v s)
  | .faultlim => .next (writeFaultlim v s)
  | .rxopt => .next (writeRxopt v s)
  | .cntsel => .next (writeCntsel v s)
  | .ident => .next s
  | .version => .next s
  | .cst => .next s
  | .res _ => .next s
  | .hstat => .next s
  | .intid => .next s
  | .flow => .next s
  | .stn0 => .next s
  | .stn1 => .next s
  | .rxstat0 => .next s
  | .rxstat1 => .next s
  | .head _ => .next s
  | .freecnt => .next s
  | .cntl => .next s
  | .cnth => .next s

/-- WINSEL_WRITE (R193). -/
def execWinselWrite (value : Byte) (s : State) : Host.Outcome State Fault Refusal :=
  hostAccess (writeWinsel value) s

/-- WINOFS_WRITE (R193). -/
def execWinofsWrite (value : Byte) (s : State) : Host.Outcome State Fault Refusal :=
  hostAccess (writeWinofs value) s

/-- CNTSEL_WRITE (R196). -/
def execCntselWrite (value : Byte) (s : State) : Host.Outcome State Fault Refusal :=
  hostAccess (writeCntsel value) s

/-- INTEN_WRITE (R179). -/
def execIntenWrite (value : Byte) (s : State) : Host.Outcome State Fault Refusal :=
  hostAccess (writeInten value) s

/-- DIVL_WRITE (R192). -/
def execDivlWrite (value : Byte) (s : State) : Host.Outcome State Fault Refusal :=
  hostAccess (writeDivl value) s

/-- DIVH_WRITE (R192). -/
def execDivhWrite (value : Byte) (s : State) : Host.Outcome State Fault Refusal :=
  hostAccess (writeDivh value) s

/-- HIWAT_WRITE (R125). -/
def execHiwatWrite (value : Byte) (s : State) : Host.Outcome State Fault Refusal :=
  hostAccess (writeHiwat value) s

/-- LOWAT_WRITE (R125). -/
def execLowatWrite (value : Byte) (s : State) : Host.Outcome State Fault Refusal :=
  hostAccess (writeLowat value) s

/-- RXTRIG_WRITE (R121). -/
def execRxtrigWrite (value : Byte) (s : State) : Host.Outcome State Fault Refusal :=
  hostAccess (writeRxtrig value) s

/-- STALE_WRITE (R123). -/
def execStaleWrite (value : Byte) (s : State) : Host.Outcome State Fault Refusal :=
  hostAccess (writeStale value) s

/-- REGISTER_WRITE (R188, R191): the write of a byte to any offset. An offset that names no register
ignores it; an offset whose register has a row of its own is written as that row does (DEDUCED,
log 9). -/
def execRegisterWrite (offset : BitVec 6) (value : Byte) (s : State) :
    Host.Outcome State Fault Refusal :=
  if s.resetLow then .next s
  else
    match registerAt offset with
    | none => .next s
    | some r => writeRegister r value s

end Sys2Proof.Machine
end

