-- ==== Sys2Proof/Machine/Resets.lean ====
section
/-! DEFINITION. The meanings of the rows of RESET# and of the supply (R63, R177, R200). The commands
that wait stay in the queue (log 20). -/

namespace Sys2Proof.Machine

open Sys2Proof

/-- RESET_ASSERTED (R200, R177): every block held at its hardware reset values, message memory kept. -/
def execResetAsserted (s : State) : Host.Outcome State Fault Refusal :=
  .next (hardwareReset true s)

/-- RESET_RELEASED (R177): every block at its hardware reset values, message memory kept. -/
def execResetReleased (s : State) : Host.Outcome State Fault Refusal :=
  .next (hardwareReset false s)

/-- POWER_UP (R200, R47): as after any hardware reset, with every byte of message memory 00h. -/
def execPowerUp (s : State) : Host.Outcome State Fault Refusal :=
  .next { State.reset with pending := s.pending }

end Sys2Proof.Machine
end

