-- ==== Sys2Proof/Machine/LineEvents.lean ====
section
/-! DEFINITION. The meanings of the rows that come from the station line: what FR takes (chapter 5) and
what LAC does with the offer, the frame, the response and the window (chapter 2). A row whose
condition does not hold in the state does not come about, and leaves the state as it is (log 4). A row
that tells of the quiet count reaching a mark carries that fact (log 3). A dominant bit of another station
finds every mark that the count has reached already taken (log 32). -/

namespace Sys2Proof.Machine

open Sys2Proof

/-- A line event: taken where its condition holds and RESET# is not low (R177). -/
def lineEvent (holds : Bool) (f : State → State) (s : State) : Host.Outcome State Fault Refusal :=
  .next (if !s.resetLow && holds then f s else s)

/-- FR is receiving a frame: HEADER, BODY or CHECK. -/
def FrMode.receiving : FrMode → Bool
  | .header | .body | .check => true
  | _ => false

/-- The station reads LRX: LISTEN, ONLINE or SILENT (R22, R174). -/
def Station.readsLine : Station → Bool
  | .listen | .online | .silent => true
  | _ => false

/-- Does FR wait for a character of the frame that has not begun (R99)? -/
def waitsForCharacter (s : State) : Bool :=
  s.fr.mode.receiving &&
    (match s.fr.record with
      | none => false
      | some r => !r.inChar)

/-- A character of another station has begun and not completed. -/
def characterBegun (s : State) : Bool :=
  s.sc.station.readsLine &&
    (match s.fr.record with
      | none => false
      | some r => r.inChar)

/-! ### Marks that the quiet count has reached -/

/-- The response deadline (R39): an open window closes with NO_RESPONSE. -/
def closeAtDeadline (s : State) : State :=
  match s.lac.window with
  | none => s
  | some n => takeNoResponse n { s with lac := { s.lac with window := none } }

/-- Every mark at or below the quiet count as it stands has had its effect (DEDUCED, log 32): the gap
guard and RECOVER (R95, R96), the truncation of a frame between two characters (R8), the response deadline
(R39), the demotion flags (R24). -/
def takeMarks (s : State) : State :=
  let s1 := reachQuiet 0 s
  let s2 := if waitsForCharacter s1 && decide (s1.lac.quiet ≥ Config.gapLimit)
    then endReception .truncated s1 else s1
  let s3 := if s2.lac.mode == .quiet && decide (s2.lac.quiet ≥ Config.responseDeadline)
    then closeAtDeadline s2 else s2
  if s3.lac.mode == .quiet then clearReachedDemotions s3 else s3

/-! ### Reception -/

/-- The response window closes at a stray, which is its failed candidate (R95, R39). -/
def strayCandidate (s : State) : State :=
  match s.lac.window with
  | none => s
  | some _ => failCandidate { s with lac := { s.lac with window := none } }

/-- A stray (R95): FR enters RECOVER, LAC stays in QUIET. -/
def takeStray (s : State) : State :=
  strayCandidate (countEvent .stray (enterRecover (otherDominant s)))

/-- A start bit that opens a frame (R95, R98, R39): an open window closes and the frame is its
candidate; LAC enters RECEIVE with any offer kept (R21, R27). -/
def takeStart (s : State) : State :=
  let s1 := openRecord s.lac.window.isSome (otherDominant s)
  { s1 with lac := { s1.lac with window := none, mode := .receive } }

/-- The start bit of a further character of the frame (R3, R99). -/
def beginCharacter (s : State) : State :=
  { s with
    lac := { s.lac with quiet := 0 }
    fr := { s.fr with record := s.fr.record.map fun r => { r with inChar := true } } }

/-- A start bit of another station, by the receiver state (5.12). -/
def takeStartBit (s : State) : State :=
  match s.fr.mode with
  | .hunt => if s.fr.guard then takeStray s else takeStart s
  | .recover => otherDominant s
  | .header => beginCharacter s
  | .body => beginCharacter s
  | .check => beginCharacter s
  | .off => s

/-- START_BIT (R95). It finds the marks of the quiet count before it taken (R6, R7, R8, R24; log 32). While
LAC drives, FR takes no start bit (R97); in LOOP and OFFLINE LRX is not read. -/
def execStartBit (s : State) : Host.Outcome State Fault Refusal :=
  lineEvent (s.sc.station.readsLine && !s.lac.mode.drives) (fun t => takeStartBit (takeMarks t)) s

/-- The character that reaches FR, if one does, with the state that has it taken from its source: from
LRX as the row gives it, or in LOOP from the internal path, whatever the row gives (R113, log 11). A
character from LRX whose start bit has not come before it brings that bit with it (log 22), so the marks of
the quiet count before it are taken (log 32). -/
def arrivingCharacter (value : Byte) (stop : LineBit) (s : State) :
    Option (Byte × LineBit × State) :=
  match s.sc.station with
  | .offline => none
  | .loop =>
    match s.lac.path with
    | [] => none
    | b :: rest => some (b, .recessive, { s with lac := { s.lac with path := rest } })
  | _ =>
    if s.lac.mode.drives then none
    else some (value, stop, if characterBegun s then s else takeMarks s)

/-- CHARACTER_RECEIVED (R99). A character on the line while FR is in RECOVER is passed over; it
restarts the quiet count as its bits do (R96). -/
def execCharacterReceived (value : Byte) (stop : LineBit) (s : State) :
    Host.Outcome State Fault Refusal :=
  if s.resetLow then .next s
  else
    match arrivingCharacter value stop s with
    | none => .next s
    | some (b, st, s1) =>
      match s1.fr.record with
      | some r =>
        match takeCharacter b st r s1 with
        | none => .fault .outsideChain
        | some s2 => .next s2
      | none =>
        if s1.fr.mode = .recover then
          let s2 := otherDominant s1
          .next { s2 with lac := { s2.lac with quiet := quietAtStop b st } }
        else .next s

/-- GAP_GUARD_CLEAR (R95, R6): the quiet count reaches 4. -/
def execGapGuardClear (s : State) : Host.Outcome State Fault Refusal :=
  lineEvent (s.fr.mode == .hunt && s.fr.guard) (reachQuiet Config.responseGap) s

/-- GAP_LIMIT_TRUNCATION (R8, R99): the quiet count reaches 11 between two characters. -/
def execGapLimitTruncation (s : State) : Host.Outcome State Fault Refusal :=
  lineEvent (waitsForCharacter s) (fun t => endReception .truncated (reachQuiet Config.gapLimit t)) s

/-- GAP_LIMIT_RECOVER (R96): the quiet count reaches 11 in RECOVER. -/
def execGapLimitRecover (s : State) : Host.Outcome State Fault Refusal :=
  lineEvent (s.fr.mode == .recover) (reachQuiet Config.gapLimit) s

/-- DOMINANT_BIT_IN_RECOVER (R96). From a quiet count of 11 on FR is not in RECOVER, and the bit is a
START_BIT. -/
def execDominantBitInRecover (s : State) : Host.Outcome State Fault Refusal :=
  lineEvent (s.fr.mode == .recover && decide (s.lac.quiet < Config.gapLimit) && s.sc.station.readsLine)
    (fun t => otherDominant (takeMarks t)) s

/-! ### Contention (2.3 to 2.5) -/

/-- DEMOTION_CLEAR (R24): the quiet count reaches the class's demoted threshold. -/
def execDemotionClear (cls : Class) (s : State) : Host.Outcome State Fault Refusal :=
  lineEvent (s.lac.mode == .quiet && s.lac.demoted.get cls)
    (fun t =>
      let t1 := reachQuiet (Config.demotedThreshold cls) t
      { t1 with lac := { t1.lac with demoted := t1.lac.demoted.set cls false } }) s

/-- May LAC begin a lead (R26): in QUIET, with no response order and no open window? -/
def mayLead (s : State) : Bool :=
  s.sc.station.sends && s.lac.mode == .quiet && s.lac.order.isNone && s.lac.window.isNone

/-- LEAD_START (R26, R76): the quiet count reaches the threshold of the offer. The marks it has passed
have had their effects (R24, R95, R96). -/
def execLeadStart (s : State) : Host.Outcome State Fault Refusal :=
  match s.lac.offer with
  | none => .next s
  | some o =>
    if !s.resetLow && mayLead s then
      match offerFrame s o with
      | .error e => .fault e
      | .ok chars =>
        let s1 := clearReachedDemotions (reachQuiet (threshold s (offerClass s o)) s)
        .next (commitOffer o chars (ownStartBit s1))
    else .next s

/-- The line bits of a lead that another station won at data bit `k` (0 is bit 7, the first sent): the
station's own bits before it, and the dominant bit read there (R29). -/
def lostLeadBits (lead : Byte) (k : Nat) : List LineBit :=
  (dataBits lead).take k ++ [.dominant]

/-- Data bit `k` of the lead that LAC drives, in the order sent. -/
def leadBit (b : Burst) (k : Nat) : LineBit :=
  (dataBits (b.chars.headD 0xFF)).getD k .recessive

/-- FR takes over the lead of the winner (R97); it receives no other frame then. -/
def takeOverLead (bits : List LineBit) (s : State) : State :=
  let s1 := abandonReception s
  { s1 with fr := { s1.fr with
      mode := .header, guard := false, record := some { Rx.empty with leadBits := bits } } }

/-- The committed offer comes back (R70, R29, R131): a slot OFFERED at the place it held, the notice
pending. -/
def returnOffer (src : BurstSource) (s : State) : State :=
  match src with
  | .response => s
  | .notice =>
    let s1 := revertNotice s
    { s1 with lac := { s1.lac with offer := some .notice } }
  | .slot n ahead =>
    match slotWhen s .sending n with
    | none => s
    | some sl =>
      let s1 := enqueueBehind sl.cls ahead n (setSlot n (some { sl with phase := .offered }) s)
      { s1 with lac := { s1.lac with offer := some (.slot n) } }

/-- LAC has lost the lead at data bit `k` (R29). -/
def loseLead (b : Burst) (k : Nat) (s : State) : State :=
  let s1 := stopBurst .receive { s with lac := { s.lac with quiet := 0 } }
  let s2 := takeOverLead (lostLeadBits (b.chars.headD 0xFF) k) (countEvent .lostContention s1)
  reevaluate (returnOffer b.source s2)

/-- CONTENTION_LOST at data bit `bit` of the lead, 0 for the first sent (R28, R29): only a recessive bit
that has not been read back as sent can be lost, and never in LOOP (R40). -/
def execContentionLost (bit : Fin 8) (s : State) : Host.Outcome State Fault Refusal :=
  match s.lac.burst with
  | none => .next s
  | some b =>
    lineEvent (s.lac.mode == .contend && s.sc.station == .online
        && decide (b.bits ≤ bit.val + 1) && leadBit b bit.val == .recessive) (loseLead b bit.val) s

/-- LEAD_WON (R30): the lead's stop bit is read back recessive. -/
def execLeadWon (s : State) : Host.Outcome State Fault Refusal :=
  match s.lac.burst with
  | none => .next s
  | some b =>
    lineEvent (s.lac.mode == .contend)
      (fun t => { t with lac := { t.lac with
        mode := .send
        quiet := quietAtStop (b.chars.headD 0xFF) .recessive
        burst := some { b with bits := max b.bits Config.characterBits } } }) s

/-! ### Echo faults (2.6) -/

/-- Is a mismatch at this bit of the frame an echo fault (R28, R33)? It lies in the part of the frame
that the LAC state drives and has not read back yet, and it is not a lost contention. -/
def isEchoFault (mode : LacMode) (b : Burst) (bit : Nat) : Bool :=
  decide (b.bits ≤ bit) &&
    (match mode with
      | .contend =>
        decide (bit < Config.characterBits) &&
          (bit == 0 || bit == 9 || frameBit b.chars bit == .dominant)
      | .send => decide (Config.characterBits ≤ bit) && decide (bit < frameBits b.chars)
      | .respond => decide (bit < frameBits b.chars)
      | _ => false)

/-- The quiet count after a mismatch at a bit (R5): 0 where recessive was sent and dominant read, one
more than before it where dominant was sent and recessive read. -/
def quietAtMismatch (b : Burst) (q bit : Nat) : Nat :=
  match frameBit b.chars bit with
  | .recessive => 0
  | .dominant => quietAfter b.chars q bit + 1

/-- The cut frame is reported by kind (R33, R82, R131), without the re-evaluation. -/
def reportCut (src : BurstSource) (s : State) : State :=
  match src with
  | .response => s
  | .notice => revertNotice s
  | .slot n _ => endEchoFault n s

/-- The fault limit (R34): at FAULTLIM or above the station enters SILENT (R169). -/
def applyFaultLimit (s : State) : State :=
  if s.lac.faults ≥ s.cfg.faultlim then enterSilent s else s

/-- An echo fault at a bit of the frame (R33). The fault is dealt with before SILENT is entered (R169),
and the re-evaluation of LAC's return to QUIET comes last (log 12). -/
def takeEchoFault (b : Burst) (bit : Nat) (s : State) : State :=
  let q := quietAtMismatch b s.lac.quiet bit
  let s1 := stopBurst .quiet { s with lac := { s.lac with quiet := q } }
  let s2 := enterRecover (countFault (countEvent .echoFault s1))
  reevaluate (applyFaultLimit (reportCut b.source s2))

/-- ECHO_FAULT at a bit of the frame, 0 for the start bit of its LEAD (R33). None arises in LOOP
(R40). -/
def execEchoFault (bit : Nat) (s : State) : Host.Outcome State Fault Refusal :=
  match s.lac.burst with
  | none => .next s
  | some b =>
    lineEvent (s.sc.station == .online && isEchoFault s.lac.mode b bit) (takeEchoFault b bit) s

/-! ### Frames sent completely (2.6, 2.8) -/

/-- A slot's frame has been sent completely (R78): a DATAGRAM is DONE SENT, a DATA slot is AWAITING and
its response window is open (R39). -/
def slotSent (n : SlotId) (s : State) : State :=
  match slotWhen s .sending n with
  | none => s
  | some sl =>
    let s1 := demote sl.cls s
    match sl.kind with
    | .datagram => completeSlot n .sent { sl with attempts := sl.attempts + 1 } s1
    | .data =>
      let s2 := setSlot n (some { sl with phase := .awaiting }) s1
      { s2 with lac := { s2.lac with window := some n } }

/-- The READY frame has been sent completely (R131, R23). -/
def noticeSent (s : State) : State :=
  demote .control { s with rq := { s.rq with notice := s.rq.notice.bind Notice.afterSent } }

/-- The report of a frame sent completely, by kind (R32). -/
def reportSent (src : BurstSource) (s : State) : State :=
  match src with
  | .response => s
  | .notice => noticeSent s
  | .slot n _ => slotSent n s

/-- LAC at the frame end of a frame of this station (R32, R38): QUIET, SENT counted, the consecutive
fault count at 0, FR told. -/
def takeFrameEnd (b : Burst) (s : State) : State :=
  let s1 := stopBurst .quiet { s with lac := { s.lac with quiet := quietAtEnd b } }
  ownFrameEnd (clearFaults (countEvent .sent s1))

/-- FRAME_SENT (R32, R78). -/
def execFrameSent (s : State) : Host.Outcome State Fault Refusal :=
  match s.lac.burst with
  | none => .next s
  | some b =>
    lineEvent (s.lac.mode == .send)
      (fun t => reevaluate (reportSent b.source (takeFrameEnd b t))) s

/-! ### Responses (2.7, 2.8) -/

/-- RESPONSE_START (R37): the quiet count stands at 4 or more with a response order held. The marks below
the count are taken (log 32), so that in LOOP the response is the candidate only before the deadline
(R39). -/
def execResponseStart (s : State) : Host.Outcome State Fault Refusal :=
  match s.lac.order with
  | none => .next s
  | some o =>
    if !s.resetLow && s.sc.station.sends && s.lac.mode == .quiet then
      match s.sc.address with
      | none => .fault .noFrameSource
      | some src =>
        let s1 := ownStartBit (takeMarks (reachQuiet Config.responseGap s))
        .next (startBurst .respond .response (responseChars src o)
          { s1 with lac := { s1.lac with order := none } })
    else .next s

/-- RESPONSE_SENT (R38). -/
def execResponseSent (s : State) : Host.Outcome State Fault Refusal :=
  match s.lac.burst with
  | none => .next s
  | some b =>
    lineEvent (s.lac.mode == .respond) (fun t => reevaluate (takeFrameEnd b t)) s

/-- NO_RESPONSE (R39, R80): the quiet count reaches 10 with the response window open. -/
def execNoResponse (s : State) : Host.Outcome State Fault Refusal :=
  match s.lac.window with
  | none => .next s
  | some _ =>
    lineEvent (s.lac.mode == .quiet)
      (fun t => closeAtDeadline (reachQuiet Config.responseDeadline t)) s

end Sys2Proof.Machine
end

