-- ==== Sys2Proof/Machine/TimeBase.lean ====
section
/-! DEFINITION. The Time Base: the expiries of the timers that count spans (R153, R122), one bit-time
(R5, R22), and the rows that have come due when a state stands as it does. -/

namespace Sys2Proof.Machine

open Sys2Proof

/-- HOLDOFF_EXPIRY of the entry for a node (R153). An entry that is not remote busy has no expiry
(R155). The row carries the fact that the holdoff's count has run out, whatever the model's own count
(DESIGN CHOICE, log 3). -/
def execHoldoffExpiry (node : Nat) (s : State) : Host.Outcome State Fault Refusal :=
  lineEvent
    (match findPeer s.pt node with
      | none => false
      | some p => p.remoteBusy)
    (releasePeer node) s

/-- STALE_TIMER_EXPIRY (R122) of a timer that runs. The row carries the fact that the elapsed count has
reached STALE × 256, whatever the model's own count (DESIGN CHOICE, log 3). -/
def execStaleTimerExpiry (s : State) : Host.Outcome State Fault Refusal :=
  lineEvent s.rq.stale.isSome
    (fun t => { t with rq := { t.rq with rxStale := true, stale := none } }) s

/-! ### One bit-time -/

/-- A holdoff has one bit-time less to run. -/
def Peer.tick (p : Peer) : Peer := { p with holdoff := p.holdoff.map fun left => left - 1 }

/-- The stale timer and the holdoffs count one bit-time, in every station state (R122, R153). -/
def tickTimers (s : State) : State :=
  { s with
    rq := { s.rq with stale := s.rq.stale.map fun n => n + 1 }
    pt := s.pt.map .tick }

/-- The expiries that a bit-time has brought. -/
def expiries (s : State) : List Instr :=
  (s.pt.filter fun p => p.holdoff == some 0).map (fun p => Instr.holdoffExpiry p.node)
    ++ (match s.rq.stale with
        | none => []
        | some n => if n ≥ s.cfg.stale * Config.span then [.staleTimerExpiry] else [])

/-- LAC drives one more bit of its frame, and reads it back as sent (R22). -/
def tickBurst (b : Burst) (s : State) : State :=
  let q := match frameBit b.chars b.bits with
    | .dominant => 0
    | .recessive => s.lac.quiet + 1
  { s with lac := { s.lac with quiet := q, burst := some { b with bits := b.bits + 1 } } }

/-- One bit-time on the line or the internal path: a bit that LAC drives, or a recessive bit (R5, R22),
which inside a character of another station is a bit of that character. In OFFLINE the count is held. -/
def tickLine (s : State) : State :=
  match s.lac.burst with
  | some b => tickBurst b s
  | none =>
    if s.sc.station.runs then
      { s with lac := { s.lac with quiet := s.lac.quiet + 1 } }
    else s

/-! ### Rows that are due -/

/-- The progress of the frame LAC drives. -/
def dueProgress (s : State) : List Instr :=
  match s.lac.burst with
  | none => []
  | some b =>
    match s.lac.mode with
    | .contend => if b.bits ≥ Config.characterBits then [.leadWon] else []
    | .send => if b.bits ≥ frameBits b.chars then [.frameSent] else []
    | .respond => if b.bits ≥ frameBits b.chars then [.responseSent] else []
    | _ => []

/-- A character that the internal path has carried whole to FR (R174). -/
def dueCharacter (s : State) : List Instr :=
  match s.lac.path with
  | [] => []
  | c :: rest =>
    match s.lac.burst with
    | none => [.characterReceived c .recessive]
    | some b =>
      if b.bits ≥ Config.characterBits * (b.chars.length - rest.length) then
        [.characterReceived c .recessive]
      else []

/-- Recessive bits that end a character of another station once its last dominant bit has been read: what
is left of eight data bits, and the stop bit (R8). -/
def silentTail (r : Rx) : Nat := 9 - r.leadBits.length

/-- A character whose sender has stopped: silence has completed it with 1 bits and a good stop bit
(R8). -/
def dueSilence (s : State) : List Instr :=
  match s.fr.record with
  | none => []
  | some r =>
    if characterBegun s && s.fr.mode.receiving && !s.lac.mode.drives
        && decide (s.lac.quiet ≥ silentTail r) then
      [.characterReceived 0xFF .recessive]
    else []

/-- FR's marks of the quiet count (1.5). -/
def dueReceiver (s : State) : List Instr :=
  (if s.fr.mode == .hunt && s.fr.guard && decide (s.lac.quiet ≥ Config.responseGap)
    then [.gapGuardClear] else [])
  ++ (if waitsForCharacter s && decide (s.lac.quiet ≥ Config.gapLimit)
    then [.gapLimitTruncation] else [])
  ++ (if s.fr.mode == .recover && decide (s.lac.quiet ≥ Config.gapLimit)
    then [.gapLimitRecover] else [])

/-- The demotion flags whose mark the quiet count has reached (R24). -/
def dueDemotions (s : State) : List Instr :=
  ([Class.urgent, .control, .normal, .bulk].filter fun c =>
    s.lac.mode == .quiet && s.lac.demoted.get c
      && decide (s.lac.quiet ≥ Config.demotedThreshold c)).map .demotionClear

/-- The response deadline (R39). -/
def dueDeadline (s : State) : List Instr :=
  if s.lac.window.isSome && s.lac.mode == .quiet && decide (s.lac.quiet ≥ Config.responseDeadline)
    then [.noResponse] else []

/-- The rows of the marks that the quiet count has reached. -/
def dueMarks (s : State) : List Instr := dueReceiver s ++ dueDeadline s ++ dueDemotions s

/-- The response whose gap has passed (R37). -/
def dueResponse (s : State) : List Instr :=
  if s.lac.order.isSome && s.sc.station.sends && s.lac.mode == .quiet
      && decide (s.lac.quiet ≥ Config.responseGap)
    then [.responseStart] else []

/-- The lead whose threshold the quiet count has reached (R26). -/
def dueLead (s : State) : List Instr :=
  match s.lac.offer with
  | none => []
  | some o =>
    if mayLead s && decide (s.lac.quiet ≥ threshold s (offerClass s o)) then [.leadStart] else []

/-- The rows that come about in this state before another bit-time passes (DESIGN CHOICE, log 2). -/
def dueRows (s : State) : List Instr :=
  if s.resetLow then []
  else
    dueProgress s ++ dueCharacter s ++ dueSilence s ++ dueMarks s ++ dueResponse s ++ dueLead s

/-- One bit-time in which no other station drives (DESIGN CHOICE, log 1). The expiries it brings, the
character it completes and the marks it reaches join the queue at once, ahead of whatever comes later. While
RESET# is low nothing runs (R177). -/
def bitTime (s : State) : State :=
  if s.resetLow then s
  else
    let s1 := tickLine (tickTimers s)
    { s1 with pending := expiries s1 ++ dueSilence s1 ++ dueMarks s1 }

/-- What the block does when no command waits (log 1, log 2): the rows that are due join the queue;
when none is due, one bit-time passes. -/
def idle (s : State) : State :=
  match dueRows s with
  | [] => bitTime s
  | rows => { s with pending := rows }

end Sys2Proof.Machine
end

