-- ==== Sys2Proof/Machine/Dispatch.lean ====
section
/-! DEFINITION. One arm for each row of the opcode table: the meaning of each command. -/

namespace Sys2Proof.Machine

open Sys2Proof

-- The effect of a command on everything but the queue.
def exec (i : Instr) (s : State) : Host.Outcome State Fault Refusal :=
  match i with
  | .allocate => Sys2Proof.Machine.execAllocate s
  | .submit => Sys2Proof.Machine.execSubmit s
  | .abort => Sys2Proof.Machine.execAbort s
  | .collect => Sys2Proof.Machine.execCollect s
  | .release => Sys2Proof.Machine.execRelease s
  | .flush => Sys2Proof.Machine.execFlush s
  | .pause => Sys2Proof.Machine.execPause s
  | .resume => Sys2Proof.Machine.execResume s
  | .forget => Sys2Proof.Machine.execForget s
  | .queryPeer => Sys2Proof.Machine.execQueryPeer s
  | .join => Sys2Proof.Machine.execJoin s
  | .leave => Sys2Proof.Machine.execLeave s
  | .goOnline => Sys2Proof.Machine.execGoOnline s
  | .goListen => Sys2Proof.Machine.execGoListen s
  | .goLoop => Sys2Proof.Machine.execGoLoop s
  | .goOffline => Sys2Proof.Machine.execGoOffline s
  | .setAddress => Sys2Proof.Machine.execSetAddress s
  | .clear => Sys2Proof.Machine.execClear s
  | .clearCounters => Sys2Proof.Machine.execClearCounters s
  | .unknownCommand code => Sys2Proof.Machine.execUnknownCommand code s
  | .stnRead => Sys2Proof.Machine.execStnRead s
  | .rxstatRead => Sys2Proof.Machine.execRxstatRead s
  | .flowRead => Sys2Proof.Machine.execFlowRead s
  | .hstatRead => Sys2Proof.Machine.execHstatRead s
  | .windataRead => Sys2Proof.Machine.execWindataRead s
  | .windataWrite value => Sys2Proof.Machine.execWindataWrite value s
  | .winselWrite value => Sys2Proof.Machine.execWinselWrite value s
  | .winofsWrite value => Sys2Proof.Machine.execWinofsWrite value s
  | .cntlRead => Sys2Proof.Machine.execCntlRead s
  | .cntselWrite value => Sys2Proof.Machine.execCntselWrite value s
  | .intenWrite value => Sys2Proof.Machine.execIntenWrite value s
  | .divlWrite value => Sys2Proof.Machine.execDivlWrite value s
  | .divhWrite value => Sys2Proof.Machine.execDivhWrite value s
  | .hiwatWrite value => Sys2Proof.Machine.execHiwatWrite value s
  | .lowatWrite value => Sys2Proof.Machine.execLowatWrite value s
  | .rxtrigWrite value => Sys2Proof.Machine.execRxtrigWrite value s
  | .staleWrite value => Sys2Proof.Machine.execStaleWrite value s
  | .registerWrite offset value => Sys2Proof.Machine.execRegisterWrite offset value s
  | .resetAsserted => Sys2Proof.Machine.execResetAsserted s
  | .resetReleased => Sys2Proof.Machine.execResetReleased s
  | .powerUp => Sys2Proof.Machine.execPowerUp s
  | .startBit => Sys2Proof.Machine.execStartBit s
  | .characterReceived value stop => Sys2Proof.Machine.execCharacterReceived value stop s
  | .gapGuardClear => Sys2Proof.Machine.execGapGuardClear s
  | .gapLimitTruncation => Sys2Proof.Machine.execGapLimitTruncation s
  | .gapLimitRecover => Sys2Proof.Machine.execGapLimitRecover s
  | .demotionClear cls => Sys2Proof.Machine.execDemotionClear cls s
  | .leadStart => Sys2Proof.Machine.execLeadStart s
  | .contentionLost bit => Sys2Proof.Machine.execContentionLost bit s
  | .leadWon => Sys2Proof.Machine.execLeadWon s
  | .echoFault bit => Sys2Proof.Machine.execEchoFault bit s
  | .frameSent => Sys2Proof.Machine.execFrameSent s
  | .responseStart => Sys2Proof.Machine.execResponseStart s
  | .responseSent => Sys2Proof.Machine.execResponseSent s
  | .noResponse => Sys2Proof.Machine.execNoResponse s
  | .holdoffExpiry node => Sys2Proof.Machine.execHoldoffExpiry node s
  | .staleTimerExpiry => Sys2Proof.Machine.execStaleTimerExpiry s
  | .dominantBitInRecover => Sys2Proof.Machine.execDominantBitInRecover s

end Sys2Proof.Machine
end

