-- ==== Sys2Proof/WellFormed.lean ====
section
/-! DEFINITION. The commands whose operands lie where the table's rows put them: a code, an offset, a
node or a bit that belongs to the row itself. -/

namespace Sys2Proof

open Sys2Proof.Machine

/-- The bits of the longest frame: 246 characters (R11). -/
def longestFrameBits : Nat := 2460

/-- UNKNOWN_COMMAND's code names no command (R190). -/
def namesNoCommand (code : Byte) : Bool := (commandOf code).isNone

/-- REGISTER_WRITE's offset is not that of a register whose write has a row of its own. -/
def isOtherWrite (offset : BitVec 6) : Bool :=
  match registerAt offset with
  | none => true
  | some r => !Register.hasOwnWriteRow r

/-- The operands of a command lie in its row's ranges. -/
def Instr.wf (c : Instr) : Bool :=
  match c with
  | .unknownCommand code => namesNoCommand code
  | .registerWrite offset _ => isOtherWrite offset
  | .echoFault bit => decide (bit < longestFrameBits)
  | .holdoffExpiry node => decide (node ≤ Config.maxNode)
  | .allocate => true
  | .submit => true
  | .abort => true
  | .collect => true
  | .release => true
  | .flush => true
  | .pause => true
  | .resume => true
  | .forget => true
  | .queryPeer => true
  | .join => true
  | .leave => true
  | .goOnline => true
  | .goListen => true
  | .goLoop => true
  | .goOffline => true
  | .setAddress => true
  | .clear => true
  | .clearCounters => true
  | .stnRead => true
  | .rxstatRead => true
  | .flowRead => true
  | .hstatRead => true
  | .windataRead => true
  | .windataWrite _ => true
  | .winselWrite _ => true
  | .winofsWrite _ => true
  | .cntlRead => true
  | .cntselWrite _ => true
  | .intenWrite _ => true
  | .divlWrite _ => true
  | .divhWrite _ => true
  | .hiwatWrite _ => true
  | .lowatWrite _ => true
  | .rxtrigWrite _ => true
  | .staleWrite _ => true
  | .resetAsserted => true
  | .resetReleased => true
  | .powerUp => true
  | .startBit => true
  | .characterReceived _ _ => true
  | .gapGuardClear => true
  | .gapLimitTruncation => true
  | .gapLimitRecover => true
  | .demotionClear _ => true
  | .leadStart => true
  | .contentionLost _ => true
  | .leadWon => true
  | .frameSent => true
  | .responseStart => true
  | .responseSent => true
  | .noResponse => true
  | .staleTimerExpiry => true
  | .dominantBitInRecover => true

end Sys2Proof
end

