-- ==== Sys2Proof/Safety.lean ====
section
/-! DEFINITION. What a safe step is, the laws of the collections that the spec states for every moment,
each as a predicate of one state, and the relations between two states that the claims use. -/

namespace Sys2Proof.Machine

open Sys2Proof

/-- A step from the state answers a next state. -/
def Safe (s : State) : Prop := ∃ t, step s = .next t

/-! ### Laws of one state -/

/-- The blocks of the slots' chains, slot 0 first. -/
def slotBlocks (s : State) : List Block :=
  allSlots.flatMap fun n =>
    match slotAt s n with
    | none => []
    | some sl => sl.chain

/-- The blocks of the reception record. -/
def recordBlocks (s : State) : List Block :=
  match s.fr.record with
  | none => []
  | some r => r.chain

/-- Every block by its holder (R48): the free list, the slots, the entries, the reception record. -/
def heldBlocks (s : State) : List Block :=
  s.bp.free ++ slotBlocks s ++ entryBlocks s.rq.entries ++ recordBlocks s

/-- A record exists only while a frame is received; a record in HEADER, or of a response or a READY
frame, holds no blocks (R98, R104). -/
def ReceptionLaw (s : State) : Prop :=
  (s.fr.mode.receiving = false → s.fr.record = none) ∧
  (s.sc.station = .offline → s.fr.record = none) ∧
  ∀ r, s.fr.record = some r →
    (s.fr.mode = .header → r.chain = []) ∧ (r.chain ≠ [] → r.kind = .data ∨ r.kind = .datagram)

/-- A DONE slot holds no blocks (R65). -/
def DoneLaw (s : State) : Prop :=
  ∀ n sl, slotAt s n = some sl → sl.phase.outcome.isSome → sl.chain = []

/-- R48: each of the 128 blocks is held once. -/
def BlockLaw (s : State) : Prop :=
  ReceptionLaw s ∧ DoneLaw s ∧ (heldBlocks s).Perm (List.finRange 128)

/-- R117: never more than 24 entries; R104: a claim that succeeded still finds room. -/
def LevelLaw (s : State) : Prop :=
  s.rq.entries.length ≤ 24 ∧
  ∀ r, s.fr.record = some r → r.claim = .succeeded → s.rq.entries.length < 24

/-- The slot stands in QUEUED or OFFERED. -/
def SlotPhase.waits : SlotPhase → Bool
  | .queued | .offered => true
  | _ => false

/-- R69: the class queues hold exactly the slots in QUEUED or OFFERED and the completion list exactly the
slots in DONE, each once. -/
def QueuesLaw (s : State) : Prop :=
  (∀ c, (s.ts.queues.get c).Nodup ∧
    ∀ n, n ∈ s.ts.queues.get c ↔ ∃ sl, slotAt s n = some sl ∧ sl.cls = c ∧ sl.phase.waits) ∧
  s.ts.completion.Nodup ∧
  ∀ n, n ∈ s.ts.completion ↔ ∃ sl, slotAt s n = some sl ∧ sl.phase.outcome.isSome

/-- R127: at most 16 distinct addresses, and none while the station is neither congested nor paused. -/
def RefusedLaw (s : State) : Prop :=
  s.rq.refused.length ≤ 16 ∧ s.rq.refused.Nodup ∧
  (s.rq.congested = false → s.rq.paused = false → s.rq.refused = [] ∧ s.rq.overflow = false)

/-- R139: at most 16 entries with distinct node addresses. -/
def PeerLaw (s : State) : Prop := s.pt.length ≤ 16 ∧ (s.pt.map Peer.node).Nodup

/-- R191, R125: every configuration value lies in its range, LOWAT below HIWAT. -/
def ConfigLaw (s : State) : Prop :=
  (1 ≤ s.cfg.div ∧ s.cfg.div ≤ 4095) ∧ (1 ≤ s.cfg.hiwat ∧ s.cfg.hiwat ≤ 24) ∧ s.cfg.lowat ≤ 23 ∧
  s.cfg.lowat < s.cfg.hiwat ∧ (1 ≤ s.cfg.rxtrig ∧ s.cfg.rxtrig ≤ 24) ∧
  (1 ≤ s.cfg.stale ∧ s.cfg.stale ≤ 255) ∧ s.cfg.retry ≤ 7 ∧ s.cfg.reserve ≤ 64 ∧
  (1 ≤ s.cfg.holdoff ∧ s.cfg.holdoff ≤ 255) ∧ (1 ≤ s.cfg.faultlim ∧ s.cfg.faultlim ≤ 15)

/-- R163, R20, R94: LAC and FR stand still exactly in OFFLINE, and only a station that is ONLINE or LOOP
drives, or holds an offer, a response order or a response window. -/
def StationLaw (s : State) : Prop :=
  (s.lac.mode = .offline ↔ s.sc.station = .offline) ∧ (s.fr.mode = .off ↔ s.sc.station = .offline) ∧
  (s.sc.station.sends = false →
    s.lac.mode.drives = false ∧ s.lac.offer = none ∧ s.lac.order = none ∧ s.lac.window = none)

/-- The record of a frame being received fits its chain (R54, R55, R105). -/
def RecordFits (mode : FrMode) (r : Rx) : Prop :=
  (mode = .header → r.count ≤ 3 ∧ r.claim = .unclaimed ∧ r.received = 0) ∧
  (r.claim = .succeeded →
    r.chain.length = blocksFor r.length ∧ r.received ≤ r.length ∧
    (r.kind = .data ∨ r.kind = .datagram) ∧
    (mode = .body → r.received < r.length ∧ r.count = r.received + 4))

/-- R50: every chain has the blocks that its length needs. -/
def ChainLaw (s : State) : Prop :=
  (∀ n sl, slotAt s n = some sl → sl.phase.outcome = none → sl.chain.length = blocksFor sl.length) ∧
  (∀ e ∈ s.rq.entries, e.chain.length = blocksFor e.length) ∧
  ∀ r, s.fr.record = some r → RecordFits s.fr.mode r

/-- R73, R145, R164: at most one slot stands in OFFERED, SENDING or AWAITING, and none beside a committed
notice; the offer names the OFFERED slot or a pending notice, and nothing is offered beside an activity; the
active entries are exactly those of the DATA slot in one of the three states; ONLINE and LOOP have an address;
a READY frame is driven for a committed notice. -/
def OfferLaw (s : State) : Prop :=
  (∀ n m sl sm, slotAt s n = some sl → slotAt s m = some sm → sl.holdsPeer → sm.holdsPeer → n = m) ∧
  (noticeCommitted s → ∀ n sl, slotAt s n = some sl → sl.holdsPeer = false) ∧
  (∀ n, s.lac.offer = some (.slot n) ↔ slotIn s .offered n) ∧
  (s.lac.offer ≠ none → schedulerBusy s = false) ∧
  (s.lac.offer = some .notice → s.rq.notice ≠ none) ∧
  (∀ n sl, slotAt s n = some sl → sl.holdsPeer → sl.kind = .data →
    ∃ p, findPeer s.pt sl.dest = some p ∧ p.active) ∧
  (∀ p ∈ s.pt, p.active → ∃ n sl, slotAt s n = some sl ∧ sl.holdsPeer ∧ sl.kind = .data ∧
    sl.dest = p.node) ∧
  (s.sc.station.sends → s.sc.address ≠ none) ∧
  (∀ b, s.lac.burst = some b → b.source = .notice → s.lac.mode.drives → noticeCommitted s)

/-- No mark of R8, R39 and R24 that the quiet count has reached is still to be taken. -/
def MarksTaken (s : State) : Prop :=
  (11 ≤ s.lac.quiet → waitsForCharacter s = false) ∧
  (10 ≤ s.lac.quiet → s.lac.mode = .quiet → s.lac.window = none) ∧
  (s.lac.mode = .quiet → ∀ c : Sys2Proof.Class, 13 + 2 * c.toNat ≤ s.lac.quiet →
    s.lac.demoted.get c = false)

/-! ### A re-evaluation -/

/-- A slot's record with OFFERED read as QUEUED: what a re-evaluation leaves alone. -/
def Slot.settled (sl : Slot) : Slot :=
  { sl with phase := if sl.phase = .offered then .queued else sl.phase }

/-- Only the offer, the slots' standing in QUEUED or OFFERED, and the peer table may differ (R75). -/
def SameButOffer (u t : State) : Prop :=
  (∀ n, (slotAt t n).map Slot.settled = (slotAt u n).map Slot.settled) ∧
  t = { u with
    lac := { u.lac with offer := t.lac.offer }
    ts := { u.ts with slots := t.ts.slots }
    pt := t.pt }

/-- The node whose entry a DATA slot that is offered makes active. -/
def offeredPeer (u : State) (o : Option Offer) : Option Nat :=
  match o with
  | some (.slot n) => (slotAt u n).bind fun sl => if sl.kind = .data then some sl.dest else none
  | _ => none

/-- The node whose entry is no longer active once the offer that `u` holds goes back (R75). -/
def releasedPeer (u : State) : Option Nat :=
  match u.lac.offer with
  | some (.slot n) =>
    (slotAt u n).bind fun sl => if sl.kind = .data ∧ sl.phase = .offered then some sl.dest else none
  | _ => none

/-- The peer table when the offer changes (R75, R140, R142): the entry of a DATA slot that is presented is
created if it is missing, the entry of the slot that goes back is no longer active, and the entry of the
slot presented stands at the front, active. -/
def peersAfterOffer (u : State) (new : Option Offer) : List Peer :=
  let made := match offeredPeer u new with
    | none => u.pt
    | some d => (ensurePeer (freshPeer u) d u.pt).getD u.pt
  let freed := match releasedPeer u with
    | none => made
    | some d => made.map fun p => if p.node = d then { p with active := false } else p
  match offeredPeer u new with
  | none => freed
  | some d =>
    match freed.find? fun p => p.node == d with
    | none => freed
    | some p => { p with active := true } :: freed.filter fun q => q.node ≠ d

/-- A slot's record when the offer changes (R75): the slot presented is OFFERED, the slot that was OFFERED
goes back to QUEUED. -/
def Slot.afterOffer (old new : Option Offer) (n : SlotId) (sl : Slot) : Slot :=
  if new = some (.slot n) then { sl with phase := .offered }
  else if old = some (.slot n) ∧ sl.phase = .offered then { sl with phase := .queued }
  else sl

/-- `t` is what a re-evaluation makes of `u` (R73 to R75): the offer is the first eligible candidate, unless
a slot is SENDING or AWAITING, a notice is committed, or LAC is in RESPOND; where the offer stays nothing
changes, and where it changes only the slots and the peer entries of the two offers do. -/
def Reevaluated (u t : State) : Prop :=
  SameButOffer u t ∧
  t.lac.offer =
    (if schedulerBusy u || u.lac.mode == .respond then u.lac.offer else chooseOffer u) ∧
  (t.lac.offer = u.lac.offer → t = u) ∧
  (t.lac.offer ≠ u.lac.offer →
    (∀ n, slotAt t n = (slotAt u n).map (Slot.afterOffer u.lac.offer t.lac.offer n)) ∧
    t.pt = peersAfterOffer u t.lac.offer)

/-! ### The receive queue -/

/-- The READY notice after a build (R128 to R130). -/
def noticeAfterBuild (s : State) : Option Notice :=
  match buildContents s with
  | none => s.rq.notice
  | some new =>
    some (match s.rq.notice with
      | none => { contents := new, committed := false, deferred := none }
      | some n => n.add new)

/-- `t` is `u` after R128: nothing when nobody was refused, else the notice is built or merged, the
refused list is emptied, and TS re-evaluates. -/
def NoticeBuilt (u t : State) : Prop :=
  if u.rq.refused = [] ∧ u.rq.overflow = false then t = u
  else
    Reevaluated
      { u with rq := { u.rq with refused := [], overflow := false, notice := noticeAfterBuild u } } t

/-- Congestion is left (R124): the flag, the event, and R128 while the station is not paused. -/
def CongestionLeft (u t : State) : Prop :=
  if u.rq.paused then
    t = { u with rq := { u.rq with congested := false }, iu := { u.iu with flowLeft := true } }
  else
    NoticeBuilt
      { u with rq := { u.rq with congested := false }, iu := { u.iu with flowLeft := true } } t

/-- `t` is `u` after the test that follows a taken water-mark write (R125). -/
def CongestionTested (u t : State) : Prop :=
  if u.rq.congested then
    if u.rq.entries.length ≤ u.cfg.lowat then CongestionLeft u t else t = u
  else if u.cfg.hiwat ≤ u.rq.entries.length then
    t = { u with rq := { u.rq with congested := true }, iu := { u.iu with flowEntered := true } }
  else t = u

/-! ### Commands -/

/-- The results that a command leaves in HP (R189). -/
def withResults (code : Byte) (c : Cst) (r : Quad) (s : State) : State :=
  { s with hp := { s.hp with cmd := code, cst := c, res := r } }

/-- A result in RES0 alone. -/
def resultByte (v : Byte) : Quad := { b0 := v, b1 := 0, b2 := 0, b3 := 0 }

/-- The arguments pass ALLOCATE's first test (R66, R202). -/
def AllocateFits (a : Quad) : Prop :=
  (a.b3 = 1 ∨ a.b3 = 2) ∧ a.b0.toNat ≤ 240 ∧ a.b1.toNat ≤ 3 ∧ a.b2.toNat ≤ 63 ∧
  (a.b3 = 1 → a.b2.toNat ≤ 47)

/-- The lowest-numbered FREE slot (R67). -/
def LowestFree (s : State) (n : SlotId) : Prop :=
  slotAt s n = none ∧ ∀ m : SlotId, m < n → slotAt s m ≠ none

/-- The window offset after a change of the queue's head (R195). -/
def offsetAtNewHead (s : State) : Nat := if s.hp.winSel = .rxHead then 0 else s.hp.winOfs

/-- What an attempt that was sent completely and drew no valid answer leaves (R80, R88): the attempt
counted and uncertain set, then DONE ABORTED, DONE FAILED, or the front of the class queue. -/
def afterNoAnswer (n : SlotId) (sl : Slot) (u : State) : State :=
  let counted := { sl with attempts := sl.attempts + 1, uncertain := true }
  if sl.abortPending then completeSlot n .aborted counted u
  else if u.cfg.retry < sl.attempts + 1 then completeSlot n .failed counted u
  else requeueFront n counted u

/-! ### Leaving ONLINE or LOOP -/

/-- `u` is `s` after what R90 does to the one slot that is OFFERED, SENDING or AWAITING, if there is one. -/
def SlotStopped (s u : State) : Prop :=
  ((∀ n sl, slotAt s n = some sl → sl.holdsPeer = false) ∧ u = s) ∨
  ∃ n sl, slotAt s n = some sl ∧
    (∀ m sm, slotAt s m = some sm → sm.holdsPeer → m = n) ∧
    ((sl.phase = .offered ∧ s.lac.offer = some (.slot n) ∧
        u = { s with
          ts := { s.ts with slots := s.ts.slots.set n (some { sl with phase := .queued }) }
          pt := match sl.kind with
            | .datagram => s.pt
            | .data => s.pt.map fun p =>
                if p.node = sl.dest then { p with active := false } else p }) ∨
     (sl.phase = .sending ∧ (∃ b ahead, s.lac.burst = some b ∧ b.source = .slot n ahead) ∧
        u = requeueFront n sl s) ∨
     (sl.phase = .awaiting ∧ u = afterNoAnswer n sl s))

/-- What a change of station state to `target` leaves of `s`, a station in ONLINE or LOOP (R171, R43, R112,
R131). `u` is `s` after what R90 does to its slot. -/
def leftLine (target : Station) (s u : State) : State :=
  let abandoned : Bool := target = .offline || s.sc.station = .loop || s.lac.burst.isSome
  { u with
    sc := { s.sc with station := target }
    lac := { s.lac with
      mode := if target = .offline then .offline
        else if s.sc.station = .online ∧ s.lac.mode = .receive then .receive
        else .quiet
      quiet := if target = .offline ∨ s.sc.station = .loop then 0 else s.lac.quiet
      demoted := .all false
      offer := none
      order := none
      window := none
      burst := none
      path := [] }
    fr := { s.fr with
      mode := if target = .offline then .off else if abandoned then .recover else s.fr.mode
      guard := s.fr.guard && !abandoned
      record := if abandoned then none
        else s.fr.record.map fun r => { r with candidate := false } }
    bp := { u.bp with free := u.bp.free ++ (if abandoned then recordBlocks s else []) }
    rq := { s.rq with notice :=
      if noticeCommitted s then s.rq.notice.map .revert else s.rq.notice } }

/-! ### Reception -/

/-- CHARACTER_RECEIVED with `v` and `stop` brings the byte `b` and the stop bit `st` to FR, which receives the
record `r`; `u` is `s` with the character taken from where it comes from: the line, with the start bit seen or
the next character still in time (R8, R99), or the internal path of LOOP (R113). Where LAC has passed on the
first bits of a lost lead, those bits stand in `b`, and the line completes them (R29, R97). -/
def CharacterArrives (v : Byte) (stop : LineBit) (s : State) (r : Rx) (b : Byte) (st : LineBit)
    (u : State) : Prop :=
  s.resetLow = false ∧ s.fr.record = some r ∧
  ((s.sc.station.readsLine ∧ s.lac.mode.drives = false ∧
      (r.inChar = true ∨ s.lac.quiet < 10 ∨ (s.lac.mode = .receive ∧ s.lac.quiet < 11)) ∧
      b = completedByte r.leadBits v ∧ st = stop ∧ u = s) ∨
   (s.sc.station = .loop ∧ st = .recessive ∧
      ∃ w rest, s.lac.path = w :: rest ∧ b = completedByte r.leadBits w ∧
        u = { s with lac := { s.lac with path := rest } }))

/-- CHARACTER_RECEIVED with `v` and `stop` is the frame end (R106): the second CHECK character, the byte `b`, with
a good stop bit. -/
def FrameEnds (v : Byte) (stop : LineBit) (s : State) (r : Rx) (b : Byte) (u : State) : Prop :=
  CharacterArrives v stop s r b .recessive u ∧ s.fr.mode = .check ∧
  r.count = (match r.kind with | .ack | .busy => 5 | _ => r.length + 5)

/-- `u` with its reception over (R106, R21): FR in `mode` with its guard as given and no record, the quiet
count at `q`, LAC back from RECEIVE. -/
def receptionOver (mode : FrMode) (guard : Bool) (q : Nat) (u : State) : State :=
  { u with
    lac := { u.lac with
      quiet := q, mode := if u.lac.mode = .receive then .quiet else u.lac.mode }
    fr := { u.fr with mode := mode, guard := guard, record := none } }

/-- A failed candidate is reported before its frame is dealt with (R106, R109). -/
def candidateFailed (r : Rx) (u : State) : State := if r.candidate then failCandidate u else u

/-- A damaged frame (R107): counted, and kept with `length`, `declared` and `tags` under keep-damaged when it
was accepted and claimed, else its chain is released. -/
def damagedDealt (r : Rx) (length : Nat) (declared : Option Nat) (tags : Tags) (u : State) : State :=
  let c := { u with ctr := { u.ctr with damaged := bump u.ctr.damaged } }
  match r.accepted with
  | none => { c with bp := { c.bp with free := c.bp.free ++ r.chain } }
  | some sort =>
    if u.cfg.keepDamaged ∧ r.claim = .succeeded then
      appendEntry
        { src := r.src, dest := r.dest, sort := sort, cls := r.cls,
          kind := if r.kind = .data then .data else .datagram, length := length,
          declared := declared, tags := tags, chain := r.chain.take (blocksFor length) }
        { c with bp := { c.bp with free := c.bp.free ++ r.chain.drop (blocksFor length) } }
    else { c with bp := { c.bp with free := c.bp.free ++ r.chain } }

/-- The UNANSWERED tag (R107, R108): a DATA frame kept in LISTEN or SILENT. -/
def unanswered (r : Rx) (s : State) : Bool :=
  decide (r.kind = .data) && (decide (s.sc.station = .listen) || decide (s.sc.station = .silent))

/-- A READY frame names this station (R154): its list is empty, which means all, or holds its address. -/
def readyNames (r : Rx) (s : State) : Prop :=
  r.list = [] ∨ ∃ x ∈ r.list, s.sc.address = some x.toNat

/-- `t` is `w` after a reception that began in `s` has been dealt with: LAC's return from RECEIVE to QUIET
causes a re-evaluation (R21, R74). -/
def ReturnsToQuiet (s w t : State) : Prop :=
  if s.lac.mode = .receive then Reevaluated w t else t = w

end Sys2Proof.Machine
end

