-- ==== Sys2Proof/Certificates/Slice0/Obligations.lean ====
section
/-! DEFINITION. The statements for the provers, family by family: the step and the reset, the laws that
every step keeps, rules of the whole part, the host commands, the registers, the line. -/

open Sys2Proof Sys2Proof.Machine

/-! ### The step and the reset -/

/-- A step runs the command at the front of the queue on the state with the queue's rest. -/
def Obligations.StepRunsTheFrontCommand : Prop :=
  ∀ (c : Instr) (rest : List Instr) (s : State),
    step { s with pending := c :: rest } = exec c { s with pending := rest }

/-- The model's choice (logs 1 and 2): with nothing waiting, the rows that are due join the queue, and when none
is due one bit-time passes. In it the quiet count of a station that drives nothing, the stale timer and every
holdoff count one (R5, R122, R153). What it brings joins the queue: the expiries, a character of another station
that silence has completed with 1 bits (R8), and the marks that the count has reached (R6 to R8, R24). -/
def Obligations.StepWithNothingWaiting : Prop :=
  ∀ s : State, s.pending = [] →
    (dueRows s ≠ [] → step s = .next { s with pending := dueRows s }) ∧
    (dueRows s = [] → s.resetLow = false → s.sc.station.runs → s.lac.burst = none →
      ∃ t, step s = .next t ∧
        t = { s with
          lac := { s.lac with quiet := s.lac.quiet + 1 }
          rq := { s.rq with stale := t.rq.stale }
          pt := t.pt
          pending := t.pending } ∧
        t.rq.stale = s.rq.stale.map (fun n => n + 1) ∧
        t.pt = s.pt.map (fun p => { p with holdoff := p.holdoff.map fun left => left - 1 }) ∧
        (∀ node, Instr.holdoffExpiry node ∈ t.pending ↔
          ∃ p ∈ s.pt, p.node = node ∧ (p.holdoff = some 1 ∨ p.holdoff = some 0)) ∧
        (Instr.staleTimerExpiry ∈ t.pending ↔
          ∃ n, s.rq.stale = some n ∧ s.cfg.stale * 256 ≤ n + 1) ∧
        (∀ r, s.fr.record = some r → s.fr.mode.receiving →
          (r.inChar = true → s.sc.station.readsLine → s.lac.mode.drives = false →
            9 ≤ s.lac.quiet + 1 + r.leadBits.length →
            Instr.characterReceived 0xFF .recessive ∈ t.pending) ∧
          (r.inChar = false → 11 ≤ s.lac.quiet + 1 → Instr.gapLimitTruncation ∈ t.pending)) ∧
        (Instr.gapGuardClear ∈ t.pending ↔
          s.fr.mode = .hunt ∧ s.fr.guard = true ∧ 4 ≤ s.lac.quiet + 1) ∧
        (Instr.gapLimitRecover ∈ t.pending ↔ s.fr.mode = .recover ∧ 11 ≤ s.lac.quiet + 1) ∧
        (Instr.noResponse ∈ t.pending ↔
          s.lac.window ≠ none ∧ s.lac.mode = .quiet ∧ 10 ≤ s.lac.quiet + 1) ∧
        ∀ c : Sys2Proof.Class, Instr.demotionClear c ∈ t.pending ↔
          s.lac.mode = .quiet ∧ s.lac.demoted.get c = true ∧ 13 + 2 * c.toNat ≤ s.lac.quiet + 1)

/-- The bytes that the 64 offsets read after reset, as the register map gives them (11.1); an offset without a
register reads 00h, and so does WINDATA with a FREE slot selected (R188, R194). The reset state has every law
that the claims below show to be kept. -/
def Obligations.ResetState : Prop :=
  ((List.range 64).map (fun k => (registerByte State.reset (BitVec.ofNat 6 k)).toNat) =
     [0x6C, 0x02, 0, 0, 0, 0, 0, 0, 0, 0, 0, 0, 0, 0, 0, 0,
      0, 0, 0, 0, 0, 0, 0, 0, 0, 0, 0x80, 0, 0, 0, 0, 0,
      0x08, 0, 0x14, 0x0C, 0x01, 0x10, 0x03, 0x10, 0x08, 0x04, 0x01, 0, 0, 0, 0, 0,
      0, 0, 0, 0, 0, 0, 0, 0, 0, 0, 0, 0, 0, 0, 0, 0]) ∧
  (Memory.wf State.reset.bp.mem = true ∧ BlockLaw State.reset ∧ LevelLaw State.reset ∧
   QueuesLaw State.reset ∧ RefusedLaw State.reset ∧ PeerLaw State.reset ∧ ConfigLaw State.reset ∧
   StationLaw State.reset ∧ ChainLaw State.reset ∧ OfferLaw State.reset ∧ MarksTaken State.reset)

/-- The three rows of RESET# and of the supply, from every state: every block at its hardware reset values;
message memory keeps its bytes through RESET# and is 00h at power-up. The model's choices in it: RESET_RELEASED
does so with no RESET_ASSERTED before it (log 23), the waiting commands stay (log 20), and the byte on the data
lines, the model's own field, is 00h (log 5). -/
def Obligations.ResetRows : Prop :=
  ∀ s : State,
    exec .resetAsserted s = .next
      { State.reset with
        bp := { free := List.finRange 128, mem := s.bp.mem }, resetLow := true, pending := s.pending } ∧
    exec .resetReleased s = .next
      { State.reset with
        bp := { free := List.finRange 128, mem := s.bp.mem }, resetLow := false, pending := s.pending } ∧
    exec .powerUp s = .next
      { State.reset with
        bp := { free := List.finRange 128, mem := [] }, resetLow := false, pending := s.pending } ∧
    ∀ a, Memory.read [] a = 0

/-- While RESET# is low a read returns 00h and has no side effect, every other row but those of RESET#
and of the supply changes nothing, INT# is released, LDIR negated and LTX high (R200). While it is high, LDIR is
asserted exactly while the station is ONLINE and LAC is in CONTEND, SEND or RESPOND, and LTX is then low for each
dominant bit sent, the start bit and every data bit 0, and high for each recessive one; while LDIR is negated, as
throughout LOOP, LTX is high (R41, R1, R3, R174). -/
def Obligations.NothingIsTakenWhileResetIsLow : Prop :=
  (∀ s : State, s.resetLow = true →
     (∀ c ∈ ([.stnRead, .rxstatRead, .flowRead, .hstatRead, .windataRead, .cntlRead] : List Instr),
       exec c s = .next { s with hp := { s.hp with dataOut := 0 } }) ∧
     (∀ c, c ∉ ([.stnRead, .rxstatRead, .flowRead, .hstatRead, .windataRead, .cntlRead,
         .resetAsserted, .resetReleased, .powerUp] : List Instr) → exec c s = .next s) ∧
     (∀ offset, registerByte s offset = 0) ∧
     intAsserted s = false ∧ ldirAsserted s = false ∧ ltxHigh s = true) ∧
  ∀ s : State, s.resetLow = false →
    (ldirAsserted s = true ↔ s.sc.station = .online ∧
      (s.lac.mode = .contend ∨ s.lac.mode = .send ∨ s.lac.mode = .respond)) ∧
    (ldirAsserted s = false → ltxHigh s = true) ∧
    (s.sc.station = .loop → ldirAsserted s = false ∧ ltxHigh s = true) ∧
    ∀ (b : Burst) (k i : Nat) (c : Byte), ldirAsserted s = true → s.lac.burst = some b →
      b.bits = 10 * k + i → i < 10 → b.chars[k]? = some c →
      ltxHigh s = (if i = 0 then false else if i = 9 then true else c.getLsbD (8 - i))

/-! ### Laws that every step keeps -/

/-- Message memory keeps its canonical form: rising addresses below 4096 and no byte of 00h listed. -/
def Obligations.MemoryStaysCanonical : Prop :=
  ∀ s t : State, Memory.wf s.bp.mem = true → step s = .next t → Memory.wf t.bp.mem = true

/-- Every block has exactly one holder after every step (R48). -/
def Obligations.EveryBlockKeepsOneHolder : Prop :=
  ∀ s t : State, BlockLaw s → step s = .next t → BlockLaw t

/-- The receive queue never holds more than 24 entries (R117, R104); the refused list stays within 16 distinct
addresses, and is empty whenever the station is neither congested nor paused (R127). -/
def Obligations.ReceiveQueueBoundsAreKept : Prop :=
  (∀ s t : State, LevelLaw s → step s = .next t → LevelLaw t) ∧
  (∀ s t : State, RefusedLaw s → step s = .next t → RefusedLaw t)

/-- The class queues and the completion list name exactly their slots, each once (R69, R85). -/
def Obligations.QueuesNameTheirSlots : Prop :=
  ∀ s t : State, QueuesLaw s → step s = .next t → QueuesLaw t

/-- The peer table stays within 16 entries with distinct node addresses (R139). -/
def Obligations.PeerTableLawIsKept : Prop :=
  ∀ s t : State, PeerLaw s → step s = .next t → PeerLaw t

/-- Every configuration value stays in its range, and LOWAT below HIWAT (R191, R125). -/
def Obligations.ConfigurationStaysInRange : Prop :=
  ∀ s t : State, ConfigLaw s → step s = .next t → ConfigLaw t

/-- LAC and FR stand still exactly in OFFLINE, and only ONLINE and LOOP drive the line or hold an offer, a
response order or a response window (R20, R94, R163). With it, at most one slot stands in OFFERED, SENDING or
AWAITING, and none beside a committed notice; the offer is the OFFERED slot or a held notice, and nothing is
offered beside an activity; the active entries are exactly those of a DATA slot in one of the three states; ONLINE
and LOOP have an address; a READY frame is driven for a committed notice (R73, R76, R145, R164, R131). -/
def Obligations.StationStateRulesTheLine : Prop :=
  (∀ s t : State, StationLaw s → step s = .next t → StationLaw t) ∧
  (∀ s t : State, StationLaw s → OfferLaw s → step s = .next t → OfferLaw t)

/-- Every chain keeps the number of blocks that its length needs (R50). -/
def Obligations.ChainsFitTheirLengths : Prop :=
  ∀ s t : State, ChainLaw s → step s = .next t → ChainLaw t

/-- No step refuses. While every chain fits its length, no step reaches an offset outside its chain (R51); while
the law of the offer holds, none lacks what a frame is formed from (R31, R37). That a step would stop otherwise is
the model's choice (log 6). -/
def Obligations.NoOffsetLeavesItsChain : Prop :=
  ∀ s : State, (∀ r, step s ≠ .refused r) ∧ (ChainLaw s → step s ≠ .fault .outsideChain) ∧
    (OfferLaw s → step s ≠ .fault .noFrameSource)

/-! ### Rules of the whole part -/

/-- Message memory is written by the window and by CHARACTER_RECEIVED alone, under which payload characters are
stored; power-up sets it to 00h (R47). -/
def Obligations.OnlyWindowAndReceptionWriteMemory : Prop :=
  ∀ (c : Instr) (s t : State), c.wf = true → exec c s = .next t →
    (∀ v, c ≠ .windataWrite v) → (∀ v b, c ≠ .characterReceived v b) → c ≠ .powerUp →
    t.bp.mem = s.bp.mem

/-- The station state changes by the station commands, CLEAR and the resets; the one change that the part
makes on its own account is from ONLINE to SILENT, at an echo fault, and it sets the fault event. -/
def Obligations.OnlyCommandsAndEchoFaultsMoveTheStation : Prop :=
  ∀ (c : Instr) (s t : State), c.wf = true → exec c s = .next t →
    c ∉ ([.goOnline, .goListen, .goLoop, .goOffline, .clear, .resetAsserted, .resetReleased,
      .powerUp] : List Instr) →
    t.sc.station = s.sc.station ∨
      (∃ b, c = .echoFault b) ∧ s.sc.station = .online ∧ t.sc.station = .silent ∧
        t.sc.faultEvent = true

/-- The node address changes by SET_ADDRESS and the resets alone (R164), the group list by JOIN, LEAVE and the
resets alone (R102), the configuration by register writes and the resets alone (R191). CST, RES0 to RES3 and
the last command code stand until the next command replaces them, and no command changes ARG0 to ARG3
(R189). -/
def Obligations.SettingsAndResultsStand : Prop :=
  (∀ (c : Instr) (s t : State), c.wf = true → exec c s = .next t →
     c ∉ ([.resetAsserted, .resetReleased, .powerUp] : List Instr) →
     (c ≠ .setAddress → t.sc.address = s.sc.address) ∧
     (c ≠ .join → c ≠ .leave → t.fr.groups = s.fr.groups) ∧
     ((∀ v, c ≠ .divhWrite v) → (∀ v, c ≠ .hiwatWrite v) → (∀ v, c ≠ .lowatWrite v) →
       (∀ v, c ≠ .rxtrigWrite v) → (∀ v, c ≠ .staleWrite v) → (∀ o v, c ≠ .registerWrite o v) →
       t.cfg = s.cfg)) ∧
  (∀ (c : Instr) (s t : State), c.wf = true → exec c s = .next t →
     c ∉ ([.resetAsserted, .resetReleased, .powerUp] : List Instr) →
     (c ∉ ([.allocate, .submit, .abort, .collect, .release, .flush, .pause, .resume, .forget, .queryPeer,
         .join, .leave, .goOnline, .goListen, .goLoop, .goOffline, .setAddress, .clear,
         .clearCounters] : List Instr) → (∀ code, c ≠ .unknownCommand code) →
       t.hp.cst = s.hp.cst ∧ t.hp.res = s.hp.res ∧ t.hp.cmd = s.hp.cmd) ∧
     ((∀ o v, c ≠ .registerWrite o v) → t.hp.args = s.hp.args))

/-- An event counter never falls, but by CLEAR_COUNTERS and the resets (10.5, R198). -/
def Obligations.CountersNeverFall : Prop :=
  ∀ (c : Instr) (s t : State), c.wf = true → exec c s = .next t →
    c ∉ ([.clearCounters, .resetAsserted, .resetReleased, .powerUp] : List Instr) →
    ∀ k : Counter, (s.ctr.get k).toNat ≤ (t.ctr.get k).toNat

/-! ### The transmit scheduler -/

/-- ALLOCATE by its tests in their order (R66, R52), each refusal changing only the results, and what it
takes when it passes them (R67): the lowest FREE slot, LOADING, with the first blocks of the free list. -/
def Obligations.AllocateByItsTests : Prop :=
  ∀ s : State, s.resetLow = false →
    (¬ AllocateFits s.hp.args →
      exec .allocate s = .next (withResults 0x10 .badArgument .zero s)) ∧
    (AllocateFits s.hp.args → (∀ n, slotAt s n ≠ none) →
      exec .allocate s = .next (withResults 0x10 .noSlot .zero s)) ∧
    ∀ (n : SlotId) (k : MsgKind) (c : Sys2Proof.Class), AllocateFits s.hp.args → LowestFree s n →
      (s.hp.args.b3.toNat = match k with | .data => 1 | .datagram => 2) →
      c.toNat = s.hp.args.b1.toNat →
      (s.bp.free.length < (s.hp.args.b0.toNat + 31) / 32 + s.cfg.reserve →
        exec .allocate s = .next (withResults 0x10 .noMemory .zero s)) ∧
      ((s.hp.args.b0.toNat + 31) / 32 + s.cfg.reserve ≤ s.bp.free.length →
        exec .allocate s = .next (withResults 0x10 .ok (resultByte (byteOf n.val))
          (setSlot n
            (some { phase := .loading, kind := k, cls := c, dest := s.hp.args.b2.toNat,
                    length := s.hp.args.b0.toNat,
                    chain := s.bp.free.take ((s.hp.args.b0.toNat + 31) / 32),
                    attempts := 0, busyCount := 0, reason := none, uncertain := false,
                    abortPending := false, sentSeq := false })
            { s with bp := { s.bp with
                free := s.bp.free.drop ((s.hp.args.b0.toNat + 31) / 32) } })))

/-- SUBMIT (R68): a LOADING slot joins the tail of its class queue and TS re-evaluates; a number above 15
and a slot in another state are refused. -/
def Obligations.SubmitQueuesALoadedSlot : Prop :=
  ∀ s : State, s.resetLow = false →
    (15 < s.hp.args.b0.toNat → exec .submit s = .next (withResults 0x11 .badArgument .zero s)) ∧
    ∀ n : SlotId, s.hp.args.b0 = byteOf n.val →
      ((∀ sl, slotAt s n = some sl → sl.phase ≠ .loading) →
        exec .submit s = .next (withResults 0x11 .badState .zero s)) ∧
      ∀ sl, slotAt s n = some sl → sl.phase = .loading →
        ∃ t, exec .submit s = .next t ∧
          Reevaluated
            (withResults 0x11 .ok .zero
              { s with ts := { s.ts with
                  slots := s.ts.slots.set n (some { sl with
                    phase := .queued, attempts := 0, busyCount := 0, reason := none,
                    uncertain := false, abortPending := false })
                  queues := s.ts.queues.set sl.cls (s.ts.queues.get sl.cls ++ [n]) } }) t

/-- ABORT by the slot's state (R87). A SENDING slot is taken on the line in ONLINE: its cut leaves LAC in QUIET and
FR in RECOVER (R35, R97). In LOOP FR takes the cut as a truncation of what it has received and enters RECOVER
(R113). That the quiet count stands through the cut is read by inference (log 16); that in LOOP the reception's
chain joins the free list before the slot's is the model's choice (log 14). What completion does is
`Obligations.EndsOfAnAttempt`. -/
def Obligations.AbortByTheSlotsState : Prop :=
  ∀ s : State, s.resetLow = false →
    (15 < s.hp.args.b0.toNat → exec .abort s = .next (withResults 0x12 .badArgument .zero s)) ∧
    ∀ n : SlotId, s.hp.args.b0 = byteOf n.val →
      (slotAt s n = none → exec .abort s = .next (withResults 0x12 .badState .zero s)) ∧
      ∀ sl, slotAt s n = some sl →
        (sl.phase = .loading →
          ∃ t, exec .abort s = .next t ∧
            Reevaluated (withResults 0x12 .ok .zero
              (setSlot n none { s with bp := { s.bp with free := s.bp.free ++ sl.chain } })) t) ∧
        (sl.phase = .queued →
          ∃ t, exec .abort s = .next t ∧
            Reevaluated (withResults 0x12 .ok .zero
              (completeSlot n .aborted sl (dequeue sl.cls n s))) t) ∧
        (sl.phase = .offered → s.lac.offer = some (.slot n) →
          ∃ t, exec .abort s = .next t ∧
            Reevaluated (withResults 0x12 .ok .zero
              (completeSlot n .aborted sl
                (dequeue sl.cls n { s with lac := { s.lac with offer := none } }))) t) ∧
        (∀ u, sl.phase = .sending → s.lac.mode.drives →
          u = { s with
            lac := { s.lac with mode := .quiet, burst := none, path := [] }
            fr := { s.fr with mode := .recover, guard := false, record := none } } →
          (s.sc.station = .online ∨ s.sc.station = .loop → s.fr.record = none →
            ∃ t, exec .abort s = .next t ∧
              Reevaluated (withResults 0x12 .ok .zero (completeSlot n .aborted sl u)) t) ∧
          (∀ r, s.sc.station = .loop → s.fr.record = some r → r.candidate = false →
            ∃ t, exec .abort s = .next t ∧
              Reevaluated (withResults 0x12 .ok .zero (completeSlot n .aborted sl
                (damagedDealt r (if s.fr.mode = .check then r.length else r.received) (some r.length)
                  { Tags.none with truncated := true } u))) t)) ∧
        (sl.phase = .awaiting →
          exec .abort s = .next (withResults 0x12 .deferred .zero
            (setSlot n (some { sl with abortPending := true }) s))) ∧
        (∀ o, sl.phase = .done o → exec .abort s = .next (withResults 0x12 .tooLate .zero s))

/-- COLLECT (R86): EMPTY on an empty completion list; else the slot at the front leaves the list, its
record stands in RES0 to RES3 as 11.5 packs it, and the slot is FREE. Taken in every station state. The list
stands in the order of completion: a slot that completes joins it at its tail. -/
def Obligations.CollectTakesTheOldestRecord : Prop :=
  ∀ s : State, s.resetLow = false →
    (s.ts.completion = [] → exec .collect s = .next (withResults 0x13 .empty .zero s)) ∧
    (∀ (n : SlotId) (rest : List SlotId) (sl : Slot) (o : SlotOutcome),
      s.ts.completion = n :: rest → slotAt s n = some sl → sl.phase = .done o →
      exec .collect s = .next
        (withResults 0x13 .ok
          { b0 := byteOf (16 * (match o with
              | .delivered => 1 | .sent => 2 | .aborted => 3 | .failed => 4 | .refused => 5) + n.val)
            b1 := byteOf ((if sl.uncertain then 128 else 0)
              + (if sl.reason = none then 0 else 64) + sl.attempts)
            b2 := byteOf sl.busyCount
            b3 := match sl.reason with | none => 0 | some v => v }
          { s with ts := { s.ts with
              slots := s.ts.slots.set n none, completion := rest } })) ∧
    ∀ (n : SlotId) (o : SlotOutcome) (sl : Slot),
      (completeSlot n o sl s).ts.completion = s.ts.completion ++ [n]

/-- The two ends of an attempt. DONE (R84, R149, R145): the outcome is recorded, the chain joins the tail of the
free list and the slot the tail of the completion list, the entry of a DATA slot that held it is active no more,
and that entry is UNSYNCED with tx next seq toggled when the outcome is not DELIVERED and uncertain is set. That
only a slot that held the entry clears its active flag, and that every outcome clears abort pending, is read by
inference (log 15). Back for another attempt (R69): QUEUED at the front of its class queue, its chain kept, its
peer entry active no more. -/
def Obligations.EndsOfAnAttempt : Prop :=
  (∀ (n : SlotId) (o : SlotOutcome) (sl : Slot) (s : State),
     completeSlot n o sl s =
       { s with
         ts := { s.ts with
           slots := s.ts.slots.set n
             (some { sl with phase := .done o, chain := [], abortPending := false })
           completion := s.ts.completion ++ [n] }
         bp := { s.bp with free := s.bp.free ++ sl.chain }
         pt := match sl.kind with
           | .datagram => s.pt
           | .data => s.pt.map fun p =>
               if p.node = sl.dest then
                 { p with
                   active := p.active && !sl.holdsPeer
                   synced := p.synced && !(sl.uncertain && decide (o ≠ .delivered))
                   txSeq := if sl.uncertain ∧ o ≠ .delivered then !p.txSeq else p.txSeq }
               else p }) ∧
  (∀ (n : SlotId) (sl : Slot) (s : State),
     requeueFront n sl s =
       { s with
         ts := { s.ts with
           slots := s.ts.slots.set n (some { sl with phase := .queued })
           queues := s.ts.queues.set sl.cls (n :: s.ts.queues.get sl.cls) }
         pt := match sl.kind with
           | .datagram => s.pt
           | .data => s.pt.map fun p => if p.node = sl.dest then { p with active := false } else p })

/-- ALLOCATE, SUBMIT, ABORT and COLLECT leave the window's select and offset as they stand, and the next WINDATA
access to a slot is tested against that slot's new state at that offset (R204). The one slot command that moves an
offset is an ABORT in LOOP that makes FR keep its truncated frame in an empty queue while the RX head is selected:
that append is a change of head (R195). CLEAR sets the offset to 0 and leaves the select. -/
def Obligations.SlotCommandsLeaveTheWindow : Prop :=
  (∀ s t : State, s.resetLow = false → exec .clear s = .next t →
     t.hp.winSel = s.hp.winSel ∧ t.hp.winOfs = 0) ∧
  ∀ (c : Instr) (s t : State),
    c ∈ ([.allocate, .submit, .abort, .collect] : List Instr) → s.resetLow = false →
    exec c s = .next t →
    t.hp.winSel = s.hp.winSel ∧
    (t.hp.winOfs = s.hp.winOfs ∨
      (c = .abort ∧ s.sc.station = .loop ∧ s.hp.winSel = .rxHead ∧ s.rq.entries = [] ∧
        t.rq.entries ≠ [] ∧ t.hp.winOfs = 0)) ∧
    ∀ n : SlotId, s.hp.winSel = .slot n →
      t.hp.winOfs = s.hp.winOfs ∧
      (∀ v, (∀ sl, slotAt t n = some sl → sl.phase = .loading → sl.length ≤ s.hp.winOfs) →
        exec (.windataWrite v) t = .next { t with hp := { t.hp with
          windowError := true, winOfs := min 240 (s.hp.winOfs + 1) } }) ∧
      (∀ v sl a, slotAt t n = some sl → sl.phase = .loading → s.hp.winOfs < sl.length →
        messageAddress sl.chain s.hp.winOfs = some a →
        exec (.windataWrite v) t = .next { t with
          bp := { t.bp with mem := Memory.write t.bp.mem a v }
          hp := { t.hp with winOfs := min 240 (s.hp.winOfs + 1) } }) ∧
      ((∀ sl, slotAt t n = some sl → sl.phase.outcome = none → sl.length ≤ s.hp.winOfs) →
        exec .windataRead t = .next { t with hp := { t.hp with
          dataOut := 0, windowError := true, winOfs := min 240 (s.hp.winOfs + 1) } }) ∧
      (∀ sl a, slotAt t n = some sl → sl.phase.outcome = none → s.hp.winOfs < sl.length →
        messageAddress sl.chain s.hp.winOfs = some a →
        exec .windataRead t = .next { t with hp := { t.hp with
          dataOut := Memory.read t.bp.mem a, winOfs := min 240 (s.hp.winOfs + 1) } })

/-- What makes a slot and the notice eligible (R71, R72). An entry that a receiver decision has created in the last
place at this very moment, so that its response order stands and the quiet count has not moved since, gives no room to
a presentation taken after it (R144, first row; how long that holds is the model's choice, log 29). The offer is the
first eligible candidate in the order of rank (R73): class 0, the notice, class 1, class 2, class 3, each queue front
to back; none when none is eligible. Presenting a DATA slot (R75, R140, R142): its destination's entry stands at the
front, active, with its other fields as they stood, or new: UNSYNCED, tx next seq 0, remote busy clear, rx known
clear. -/
def Obligations.OfferIsFirstInRank : Prop :=
  (∀ (s : State) (n : SlotId), eligible s n = true ↔
     ∃ sl, slotAt s n = some sl ∧ (sl.phase = .queued ∨ sl.phase = .offered) ∧
       (s.sc.station = .online ∨ s.sc.station = .loop) ∧
       (sl.kind = .data →
         (∃ p, findPeer s.pt sl.dest = some p ∧ p.holdoff = none) ∨
         (∀ p ∈ s.pt, p.node ≠ sl.dest) ∧
           (s.pt.length < 16 ∨
             ∃ p ∈ s.pt, p.active = false ∧ p.holdoff = none ∧ freshPeer s ≠ some p.node))) ∧
  (∀ (s : State) (node : Nat), freshPeer s = some node ↔
     ∃ o, s.lac.order = some o ∧ o.dest = node ∧ o.createdAt = some s.lac.quiet) ∧
  (∀ s : State, noticeEligible s = true ↔
     (s.sc.station = .online ∨ s.sc.station = .loop) ∧
     ∃ notice, s.rq.notice = some notice ∧ notice.committed = false) ∧
  (∀ s : State,
     match chooseOffer s with
     | none => noticeEligible s = false ∧ ∀ c, ∀ n ∈ s.ts.queues.get c, eligible s n = false
     | some .notice =>
       noticeEligible s = true ∧ ∀ n ∈ s.ts.queues.urgent, eligible s n = false
     | some (.slot n) =>
       ∃ c front back, s.ts.queues.get c = front ++ n :: back ∧ eligible s n = true ∧
         (∀ m ∈ front, eligible s m = false) ∧
         (∀ d : Sys2Proof.Class, d.toNat < c.toNat → ∀ m ∈ s.ts.queues.get d, eligible s m = false) ∧
         (c ≠ .urgent → noticeEligible s = false)) ∧
  (∀ (s : State) (n : SlotId) (sl : Slot),
     schedulerBusy s = false → s.lac.mode ≠ .respond → chooseOffer s = some (.slot n) →
     s.lac.offer ≠ some (.slot n) → slotAt s n = some sl → sl.kind = .data →
     ∃ p rest, (reevaluate s).pt = p :: rest ∧
       (slotAt (reevaluate s) n) = some { sl with phase := .offered } ∧
       (∀ q, findPeer s.pt sl.dest = some q → p = { q with active := true }) ∧
       (findPeer s.pt sl.dest = none →
         p = { node := sl.dest, synced := false, txSeq := false, holdoff := none, rxKnown := false,
               rxSeq := false, rxResync := false, active := true }))

/-! ### The receive queue, the peer table and the group list -/

/-- RELEASE (R119): EMPTY on an empty queue; else the head leaves and its chain joins the tail of the free list,
RXSTALE is cleared, the stale timer restarts or stops, the window follows the head (R195). FLUSH (R120): every
entry leaves, their chains join the free list oldest first, RXSTALE and the stale timer are cleared; that a FLUSH
of an empty queue leaves the offset is the model's choice (log 31). Either leaves congestion at LOWAT (R124), with
R128 when the station is not paused. -/
def Obligations.ReleaseAndFlush : Prop :=
  (∀ s : State, s.resetLow = false →
     (s.rq.entries = [] → exec .release s = .next (withResults 0x20 .empty .zero s)) ∧
     ∀ (e : Entry) (rest : List Entry) (u : State), s.rq.entries = e :: rest →
       u = withResults 0x20 .ok (resultByte (byteOf rest.length))
         { s with
           bp := { s.bp with free := s.bp.free ++ e.chain }
           rq := { s.rq with
             entries := rest, rxStale := false
             stale := if 0 < rest.length ∧ rest.length < s.cfg.rxtrig then some 0 else none }
           hp := { s.hp with winOfs := offsetAtNewHead s } } →
       (s.rq.congested = false ∨ s.cfg.lowat < rest.length → exec .release s = .next u) ∧
       (s.rq.congested = true → rest.length ≤ s.cfg.lowat →
         ∃ t, exec .release s = .next t ∧
           (if s.rq.paused then
             t = { u with
               rq := { u.rq with congested := false }, iu := { u.iu with flowLeft := true } }
           else NoticeBuilt
             { u with rq := { u.rq with congested := false }, iu := { u.iu with flowLeft := true } } t))) ∧
  (∀ (s u : State), s.resetLow = false →
     u = withResults 0x21 .ok (resultByte (byteOf s.rq.entries.length))
       { s with
         bp := { s.bp with free := s.bp.free ++ (s.rq.entries.map Entry.chain).flatten }
         rq := { s.rq with entries := [], rxStale := false, stale := none }
         hp := { s.hp with
           winOfs := if s.rq.entries = [] then s.hp.winOfs else offsetAtNewHead s } } →
     (s.rq.congested = false → exec .flush s = .next u) ∧
     (s.rq.congested = true →
       ∃ t, exec .flush s = .next t ∧ t.rq.entries = [] ∧ t.rq.drop = s.rq.drop ∧
         t.rq.loss = s.rq.loss ∧
         (if s.rq.paused then
           t = { u with
             rq := { u.rq with congested := false }, iu := { u.iu with flowLeft := true } }
         else NoticeBuilt
           { u with rq := { u.rq with congested := false }, iu := { u.iu with flowLeft := true } } t)))

/-- PAUSE sets the paused flag; RESUME clears it, and R128 applies when that leaves the station neither
congested nor paused (R126). How new contents reach a held notice: merged with it while it is not committed
(R129), with its deferred part while it is (R130). -/
def Obligations.PauseAndResume : Prop :=
  (∀ s : State, s.resetLow = false →
     exec .pause s = .next (withResults 0x22 .ok .zero { s with rq := { s.rq with paused := true } }) ∧
     (s.rq.paused = false → exec .resume s = .next (withResults 0x23 .ok .zero s)) ∧
     (s.rq.paused = true → s.rq.congested = true →
       exec .resume s = .next
         (withResults 0x23 .ok .zero { s with rq := { s.rq with paused := false } })) ∧
     (s.rq.paused = true → s.rq.congested = false →
       ∃ t, exec .resume s = .next t ∧
         NoticeBuilt (withResults 0x23 .ok .zero { s with rq := { s.rq with paused := false } }) t)) ∧
  (∀ held new : Named, held.merge new =
     match held, new with
     | .all, _ => .all
     | .list _, .all => .all
     | .list a, .list b =>
       if 16 < (a ++ b.filter fun x => decide (x ∉ a)).length then .all
       else .list (a ++ b.filter fun x => decide (x ∉ a))) ∧
  (∀ (n : Notice) (new : Named),
     (n.committed = false → n.add new = { n with contents := n.contents.merge new }) ∧
     (n.committed = true → n.add new = { n with deferred :=
       match n.deferred with
       | none => some new
       | some d => some (d.merge new) }))

/-- FORGET (R146): an address above 47, an address without an entry and an active entry are refused; else the
entry leaves the table, and the removal of a remote-busy one counts as a release. QUERY_PEER (R147, 11.6):
the entry's fields in RES0, the holdoff left in whole spans rounded up in RES1, its place in RES2, its node in
RES3; no entry and no order changes. -/
def Obligations.ForgetAndQueryPeer : Prop :=
  (∀ s : State, s.resetLow = false →
     (47 < s.hp.args.b0.toNat → exec .forget s = .next (withResults 0x30 .badArgument .zero s)) ∧
     (s.hp.args.b0.toNat ≤ 47 → (∀ p ∈ s.pt, p.node ≠ s.hp.args.b0.toNat) →
       exec .forget s = .next (withResults 0x30 .notFound .zero s)) ∧
     ∀ p, s.hp.args.b0.toNat ≤ 47 → findPeer s.pt s.hp.args.b0.toNat = some p →
       (p.active = true → exec .forget s = .next (withResults 0x30 .badState .zero s)) ∧
       (p.active = false → p.holdoff = none →
         exec .forget s = .next (withResults 0x30 .ok .zero
           { s with pt := s.pt.filter fun q => q.node ≠ s.hp.args.b0.toNat })) ∧
       (p.active = false → p.holdoff ≠ none →
         ∃ t, exec .forget s = .next t ∧
           Reevaluated (withResults 0x30 .ok .zero
             { s with
               pt := s.pt.filter fun q => q.node ≠ s.hp.args.b0.toNat
               iu := { s.iu with flowReleased := true } }) t)) ∧
  (∀ s : State, s.resetLow = false →
     (47 < s.hp.args.b0.toNat → exec .queryPeer s = .next (withResults 0x31 .badArgument .zero s)) ∧
     (s.hp.args.b0.toNat ≤ 47 → (∀ p ∈ s.pt, p.node ≠ s.hp.args.b0.toNat) →
       exec .queryPeer s = .next (withResults 0x31 .notFound .zero s)) ∧
     ∀ ahead p behind, s.pt = ahead ++ p :: behind → p.node = s.hp.args.b0.toNat → p.node ≤ 47 →
       (∀ q ∈ ahead, q.node ≠ p.node) →
       ∃ t, exec .queryPeer s = .next t ∧
         t = withResults 0x31 .ok t.hp.res s ∧
         (List.range 8).map (fun i => t.hp.res.b0.getLsbD i) =
           [p.synced, p.txSeq, p.holdoff.isSome, p.rxKnown, p.rxKnown && p.rxSeq,
            p.rxKnown && p.rxResync, p.active, false] ∧
         t.hp.res.b1 = byteOf (match p.holdoff with | none => 0 | some left => (left + 255) / 256) ∧
         t.hp.res.b2 = byteOf ahead.length ∧ t.hp.res.b3 = byteOf p.node)

/-- JOIN and LEAVE (R102): RES0 returns the list's length after the command whatever CST reads; CLEAR and
every change of station state keep the list, hardware reset empties it. -/
def Obligations.JoinAndLeaveKeepTheGroupList : Prop :=
  ∀ (s : State) (g : Nat) (gs : List Nat), s.resetLow = false → g = s.hp.args.b0.toNat →
    gs = s.fr.groups →
    (¬ (48 ≤ g ∧ g ≤ 62) →
      exec .join s = .next (withResults 0x38 .badArgument (resultByte (byteOf gs.length)) s) ∧
      exec .leave s = .next (withResults 0x39 .badArgument (resultByte (byteOf gs.length)) s)) ∧
    (48 ≤ g → g ≤ 62 →
      (g ∈ gs →
        exec .join s = .next (withResults 0x38 .ok (resultByte (byteOf gs.length)) s) ∧
        exec .leave s = .next
          (withResults 0x39 .ok (resultByte (byteOf (gs.filter fun x => x ≠ g).length))
            { s with fr := { s.fr with groups := gs.filter fun x => x ≠ g } })) ∧
      (g ∉ gs →
        exec .leave s = .next (withResults 0x39 .notFound (resultByte (byteOf gs.length)) s) ∧
        (gs.length = 8 →
          exec .join s = .next (withResults 0x38 .full (resultByte (byteOf 8)) s)) ∧
        (gs.length < 8 →
          exec .join s = .next (withResults 0x38 .ok (resultByte (byteOf (gs.length + 1)))
            { s with fr := { s.fr with groups := gs ++ [g] } })))) ∧
    (∀ c t, c ∈ ([.goOnline, .goListen, .goLoop, .goOffline, .clear] : List Instr) ∨
        (∃ b, c = .echoFault b) → exec c s = .next t → t.fr.groups = gs) ∧
    (∀ t, exec .resetAsserted s = .next t → t.fr.groups = [])

/-- An eviction takes out the evictable entry that stands furthest back, never one that is active or remote busy nor
the one to be kept, and finds one whenever there is one (R139, R141). PT answers yes for a destination whose entry
is not remote busy, and for a node without an entry while there is a free place or an evictable entry (R139). The
table with an entry for a node: as it stands if it has one, else with a new one at the front, after an eviction
where none of the 16 places is free (R142, R143). The entry to be kept is the one that a decision has created in
the last place at this moment (R144; log 29). -/
def Obligations.PeerTableMakesRoom : Prop :=
  ∀ keep : Option Nat,
  (∀ ps : List Peer,
     match evictOne keep ps with
     | none => ∀ p ∈ ps, p.active = true ∨ p.holdoff.isSome ∨ keep = some p.node
     | some rest =>
       ∃ ahead p behind, ps = ahead ++ p :: behind ∧ rest = ahead ++ behind ∧
         p.active = false ∧ p.holdoff = none ∧ keep ≠ some p.node ∧
         ∀ q ∈ behind, q.active = true ∨ q.holdoff.isSome ∨ keep = some q.node) ∧
  (∀ (ps : List Peer) (node : Nat), (ps.map Peer.node).Nodup →
     (peerAdmits keep ps node = true ↔
       (∃ p ∈ ps, p.node = node ∧ p.holdoff = none) ∨
       (∀ p ∈ ps, p.node ≠ node) ∧
         (ps.length < 16 ∨
           ∃ p ∈ ps, p.active = false ∧ p.holdoff = none ∧ keep ≠ some p.node))) ∧
  (∀ (ps : List Peer) (node : Nat),
     (∀ p ∈ ps, p.node = node → ensurePeer keep node ps = some ps) ∧
     ∀ fresh : Peer, (∀ p ∈ ps, p.node ≠ node) →
       fresh = { node := node, synced := false, txSeq := false, holdoff := none, rxKnown := false,
                 rxSeq := false, rxResync := false, active := false } →
       (ps.length < 16 → ensurePeer keep node ps = some (fresh :: ps)) ∧
       (16 ≤ ps.length →
         ensurePeer keep node ps = (evictOne keep ps).map fun rest => fresh :: rest))

/-! ### Station commands -/

/-- GO_ONLINE (R165) with the address present, by the state it finds; without one it is refused. On the way
out of LOOP what was in flight is stopped (R171, `leftLine`). That the chain of a slot that ends there joins the free
list before that of the abandoned reception is the model's choice (log 14). -/
def Obligations.GoOnlineByTheStateFound : Prop :=
  ∀ s : State, s.resetLow = false →
    (s.sc.address = none → exec .goOnline s = .next (withResults 0x40 .badState .zero s)) ∧
    (s.sc.address ≠ none →
      (s.sc.station = .offline → ∃ t, exec .goOnline s = .next t ∧
        Reevaluated (withResults 0x40 .ok .zero { s with
          sc := { s.sc with station := .online }
          lac := { s.lac with mode := .quiet, quiet := 0, faults := 0 }
          fr := { s.fr with mode := .recover, guard := false } }) t) ∧
      (s.sc.station = .listen ∨ s.sc.station = .silent ∨ s.sc.station = .online →
        ∃ t, exec .goOnline s = .next t ∧
          Reevaluated (withResults 0x40 .ok .zero { s with
            sc := { s.sc with station := .online }
            lac := { s.lac with faults := 0 } }) t) ∧
      (s.sc.station = .loop →
        ∃ t, exec .goOnline s = .next t ∧
          t.sc = { s.sc with station := .online } ∧ t.lac.mode = .quiet ∧ t.lac.quiet = 0 ∧
          t.lac.faults = 0 ∧ t.lac.burst = none ∧ t.lac.order = none ∧ t.lac.window = none ∧
          t.lac.demoted = .all false ∧ t.fr.mode = .recover ∧ t.fr.record = none ∧
          t.fr.groups = s.fr.groups ∧ t.bp.mem = s.bp.mem ∧ t.rq.entries = s.rq.entries ∧
          t.iu = s.iu ∧ t.cfg = s.cfg ∧ t.ctr = s.ctr) ∧
      (∀ v u, s.sc.station = .loop → v = { s with lac := { s.lac with faults := 0 } } →
        SlotStopped v u →
        ∃ t, exec .goOnline s = .next t ∧
          Reevaluated (withResults 0x40 .ok .zero (leftLine .online v u)) t))

/-- GO_LISTEN from OFFLINE, LISTEN and SILENT, and out of LOOP (R166, R171); GO_LOOP from OFFLINE alone, with the
address present (R167); GO_OFFLINE from OFFLINE, LISTEN and SILENT, with the READY notice discarded and a reception
abandoned (R168, R112), and out of ONLINE and LOOP, where what was in flight is stopped as `leftLine` says (R171,
R90, R43, R131). That the chain of a slot that ends there joins the free list before that of the abandoned reception
is the model's choice (log 14). -/
def Obligations.StationCommandsOffTheLine : Prop :=
  ∀ s : State, s.resetLow = false →
    (s.sc.station = .offline →
      exec .goListen s = .next (withResults 0x41 .ok .zero { s with
        sc := { s.sc with station := .listen }
        lac := { s.lac with mode := .quiet, quiet := 0 }
        fr := { s.fr with mode := .recover, guard := false } }) ∧
      exec .goOffline s = .next (withResults 0x43 .ok .zero
        { s with rq := { s.rq with notice := none } }) ∧
      (s.sc.address = none → exec .goLoop s = .next (withResults 0x42 .badState .zero s)) ∧
      (s.sc.address ≠ none → ∃ t, exec .goLoop s = .next t ∧
        Reevaluated (withResults 0x42 .ok .zero { s with
          sc := { s.sc with station := .loop }
          lac := { s.lac with mode := .quiet, quiet := 0 }
          fr := { s.fr with mode := .recover, guard := false } }) t)) ∧
    (s.sc.station ≠ .offline → exec .goLoop s = .next (withResults 0x42 .badState .zero s)) ∧
    (s.sc.station = .listen ∨ s.sc.station = .silent →
      exec .goListen s = .next (withResults 0x41 .ok .zero
        { s with sc := { s.sc with station := .listen } }) ∧
      exec .goOffline s = .next (withResults 0x43 .ok .zero { s with
        sc := { s.sc with station := .offline }
        lac := { s.lac with mode := .offline, quiet := 0 }
        fr := { s.fr with mode := .off, guard := false, record := none }
        bp := { s.bp with free := s.bp.free ++ recordBlocks s }
        rq := { s.rq with notice := none } })) ∧
    (∀ u, SlotStopped s u →
      (s.sc.station = .loop →
        exec .goListen s = .next (withResults 0x41 .ok .zero (leftLine .listen s u))) ∧
      (s.sc.station = .online ∨ s.sc.station = .loop →
        exec .goOffline s = .next (withResults 0x43 .ok .zero { leftLine .offline s u with
          rq := { s.rq with notice := none } })))

/-- GO_LISTEN out of ONLINE (R171, R90, R43, R112, R131): the slot that was OFFERED, SENDING or AWAITING goes back
or ends as `SlotStopped` says, a cut frame leaves FR in RECOVER, a reception of another station goes on without its
mark, a committed notice returns to pending, the demotion flags are normal, and the quiet count runs on, by
inference (log 16; `leftLine`); the order of two released chains is the model's choice (log 14). The case of a
slot's frame on the line is written out. -/
def Obligations.LeavingOnlineCutsTheFrame : Prop :=
  (∀ s u : State, s.resetLow = false → s.sc.station = .online → SlotStopped s u →
     exec .goListen s = .next (withResults 0x41 .ok .zero (leftLine .listen s u))) ∧
  ∀ (s : State) (n : SlotId) (ahead : List SlotId) (b : Burst) (sl : Slot),
    s.resetLow = false → s.sc.station = .online → s.lac.burst = some b → b.source = .slot n ahead →
    slotAt s n = some sl → sl.phase = .sending → s.lac.mode.drives → s.lac.offer = none →
    s.fr.record = none → (∀ m, slotIn s .awaiting m = false) → noticeCommitted s = false →
    exec .goListen s = .next (withResults 0x41 .ok .zero { s with
      sc := { s.sc with station := .listen }
      lac := { s.lac with
        mode := .quiet, demoted := .all false, order := none, window := none, burst := none,
        path := [] }
      fr := { s.fr with mode := .recover, guard := false }
      ts := { s.ts with
        slots := s.ts.slots.set n (some { sl with phase := .queued })
        queues := s.ts.queues.set sl.cls (n :: s.ts.queues.get sl.cls) }
      pt := match sl.kind with
        | .datagram => s.pt
        | .data => s.pt.map fun p => if p.node = sl.dest then { p with active := false } else p })

/-- SET_ADDRESS (R164, R202): the argument is tested before the state; FFh means none. -/
def Obligations.SetAddressOnlyOffline : Prop :=
  ∀ s : State, s.resetLow = false →
    (47 < s.hp.args.b0.toNat → s.hp.args.b0 ≠ 0xFF →
      exec .setAddress s = .next (withResults 0x44 .badArgument .zero s)) ∧
    (s.hp.args.b0.toNat ≤ 47 ∨ s.hp.args.b0 = 0xFF →
      (s.sc.station ≠ .offline →
        exec .setAddress s = .next (withResults 0x44 .badState .zero s)) ∧
      (s.sc.station = .offline →
        exec .setAddress s = .next (withResults 0x44 .ok .zero { s with sc := { s.sc with
          address := if s.hp.args.b0 = 0xFF then none else some s.hp.args.b0.toNat } })))

/-- CLEAR (R199; R45, R62, R92, R114, R136, R162, R176, R187): what it resets and what it keeps; after it every
slot is FREE, the queue is empty, and a WINDATA access is refused. What HP, the configuration, INTEN and the
counters hold after hardware reset; that the data lines, the model's own field, read 00h is its choice
(log 5). -/
def Obligations.ClearResetsTheCollections : Prop :=
  (∀ (s t : State), s.resetLow = false →
     t = { State.reset with
         bp := { free := List.finRange 128, mem := s.bp.mem }
         fr := { State.reset.fr with groups := s.fr.groups }
         sc := { station := .offline, address := s.sc.address, faultEvent := false }
         iu := { State.reset.iu with inten := s.iu.inten }
         hp := { s.hp with
           cmd := 0x4F, cst := .ok, res := .zero, windowError := false, configError := false,
           winOfs := 0 }
         cfg := s.cfg
         ctr := s.ctr
         resetLow := false
         pending := s.pending } →
     exec .clear s = .next t ∧
     (∀ n, slotAt t n = none) ∧ t.rq.entries = [] ∧
     (∀ v, exec (.windataWrite v) t =
       .next { t with hp := { t.hp with windowError := true, winOfs := 1 } }) ∧
     exec .windataRead t =
       .next { t with hp := { t.hp with windowError := true, winOfs := 1, dataOut := 0 } }) ∧
  (∀ s : State, ∃ u, exec .resetAsserted s = .next u ∧
     u.hp = { args := .zero, res := .zero, cst := .ok, cmd := 0, windowError := false,
              configError := false, winSel := .slot 0, winOfs := 0, cntSel := .sent, latch := 0,
              divLow := 0x08, dataOut := 0 } ∧
     u.cfg = { div := 8, hiwat := 20, lowat := 12, rxtrig := 1, stale := 16, retry := 3, reserve := 16,
               holdoff := 8, faultlim := 4, broadcastAccept := true, keepDamaged := false } ∧
     u.iu.inten = 0 ∧ ∀ k, u.ctr.get k = 0)

/-- CLEAR_COUNTERS (R198): all eight counters at 0, OK, and no other state; an event before it is lost, an
event after it reads 1; CLEAR leaves the counters and hardware reset sets them to 0. -/
def Obligations.ClearCountersSetsAllToZero : Prop :=
  ∀ (s t : State) (k : Counter), s.resetLow = false →
    t = withResults 0x50 .ok .zero { s with ctr := .zero } →
    exec .clearCounters s = .next t ∧
    (∀ j, t.ctr.get j = 0) ∧
    exec .clearCounters (countEvent k s) = .next t ∧
    (countEvent k t).ctr.get k = 1 ∧
    (∀ u, exec .clear s = .next u → u.ctr = s.ctr) ∧
    (∀ u, exec .resetAsserted s = .next u → ∀ j, u.ctr.get j = 0)

/-- A code that names no command (R190) gives UNKNOWN and changes nothing else. -/
def Obligations.UnknownCodesChangeNothing : Prop :=
  ∀ (s : State) (code : Byte), s.resetLow = false →
    code.toNat ∉ [0x10, 0x11, 0x12, 0x13, 0x20, 0x21, 0x22, 0x23, 0x30, 0x31, 0x38, 0x39, 0x40, 0x41,
      0x42, 0x43, 0x44, 0x4F, 0x50] →
    exec (.unknownCommand code) s = .next (withResults code .unknown .zero s)

/-! ### Registers -/

/-- The reads that clear (R182, R183, R185, R190): each returns its register's byte as it stands and clears its
event flags in the same step, and its cause is not pending after it. A CNTL read (R197) returns the low byte
of the selected counter and latches the whole value, whose high byte CNTH then reads, whatever the counter
does meanwhile. The byte driven on the data lines is the model's own field (log 5). What the status, head, result
and argument registers hold in every state (11.2 to 11.4, R189, R188). -/
def Obligations.ReadsWithASideEffect : Prop :=
  (∀ s : State, s.resetLow = false →
     (∃ t, exec .stnRead s = .next t ∧ causePending t .fault = false ∧
       t = { s with
         sc := { s.sc with faultEvent := false }
         hp := { s.hp with dataOut := registerByte s 0x10 } }) ∧
     (∃ t, exec .rxstatRead s = .next t ∧ causePending t .drop = false ∧
       t = { s with
         rq := { s.rq with drop := false }
         hp := { s.hp with dataOut := registerByte s 0x13 } }) ∧
     (∃ t, exec .flowRead s = .next t ∧ causePending t .flow = false ∧
       t = { s with
         iu := { s.iu with
           flowEntered := false, flowLeft := false, flowBusy := false, flowReleased := false }
         hp := { s.hp with dataOut := registerByte s 0x0F } }) ∧
     exec .hstatRead s = .next
       { s with hp := { s.hp with
           windowError := false, configError := false, dataOut := registerByte s 0x0C } }) ∧
  (∀ s : State, s.resetLow = false →
     ∃ t, exec .cntlRead s = .next t ∧
       t = { s with hp := { s.hp with
         dataOut := (s.ctr.get s.hp.cntSel).extractLsb' 0 8, latch := s.ctr.get s.hp.cntSel } } ∧
       registerByte s 0x31 = (s.ctr.get s.hp.cntSel).extractLsb' 0 8 ∧
       ∀ k, registerByte (countEvent k t) 0x32 = (s.ctr.get s.hp.cntSel).extractLsb' 8 8) ∧
  (∀ (s : State) (bits : BitVec 6 → List Bool), s.resetLow = false →
     (∀ o, bits o = (List.range 8).map fun i => (registerByte s o).getLsbD i) →
     (registerByte s 0x10).toNat =
       (match s.sc.station with
         | .offline => 0 | .listen => 1 | .online => 2 | .silent => 3 | .loop => 4)
       + (if s.sc.faultEvent then 128 else 0) ∧
     (s.sc.address = none → registerByte s 0x11 = 0) ∧
     (∀ a, s.sc.address = some a → a ≤ 47 → (registerByte s 0x11).toNat = 128 + a) ∧
     (s.rq.entries.length ≤ 24 → (registerByte s 0x12).toNat = s.rq.entries.length) ∧
     bits 0x13 = [s.rq.congested, s.rq.paused, false, false, false, false, false, s.rq.drop] ∧
     bits 0x0F = [s.iu.flowEntered, s.iu.flowLeft, s.iu.flowBusy, s.iu.flowReleased,
       false, false, false, false] ∧
     bits 0x0C = [s.hp.windowError, s.hp.configError, false, false, false, false, false, false] ∧
     (s.bp.free.length ≤ 128 → (registerByte s 0x1A).toNat = s.bp.free.length) ∧
     registerByte s 0x02 = s.hp.cmd ∧
     (registerByte s 0x03).toNat =
       (match s.hp.cst with
         | .ok => 0x00 | .deferred => 0x01 | .empty => 0x02 | .noSlot => 0x03 | .noMemory => 0x04
         | .badArgument => 0x05 | .badState => 0x06 | .tooLate => 0x07 | .notFound => 0x08
         | .full => 0x09 | .unknown => 0x0F) ∧
     [0x04, 0x05, 0x06, 0x07].map (registerByte s) =
       [s.hp.args.b0, s.hp.args.b1, s.hp.args.b2, s.hp.args.b3] ∧
     [0x08, 0x09, 0x0A, 0x0B].map (registerByte s) =
       [s.hp.res.b0, s.hp.res.b1, s.hp.res.b2, s.hp.res.b3] ∧
     (s.rq.entries = [] →
       [0x14, 0x15, 0x16, 0x17, 0x18, 0x19].map (registerByte s) = [0, 0, 0, 0, 0, 0]) ∧
     ∀ e rest, s.rq.entries = e :: rest → e.src ≤ 47 → e.dest ≤ 63 → e.length ≤ 240 →
       e.declared.getD 0 ≤ 240 →
       [0x14, 0x15, 0x16, 0x17, 0x18].map (fun o => (registerByte s o).toNat) =
         [128 + e.src,
          64 * (match e.sort with | .own => 1 | .group => 2 | .broadcast => 3) + e.dest,
          16 * (match e.kind with | .data => 1 | .datagram => 2) + e.cls.toNat,
          e.length, e.declared.getD 0] ∧
       bits 0x19 = [e.tags.crcBad, e.tags.framing, e.tags.truncated, e.tags.adopted,
         e.tags.unanswered, e.tags.lossBefore, false, false])

/-- A write of CNTSEL (R196): 0 to 7 select the counters in their order, every other value is ignored and
sets CONFIG_ERROR; a read returns the select; the select is SENT after hardware reset, CLEAR leaves it, and
a change of select does not change the latch. -/
def Obligations.CounterSelect : Prop :=
  ∀ (s : State) (v : Byte), s.resetLow = false →
    (∀ k, [Counter.sent, .lostContention, .echoFault, .received, .damaged, .stray, .duplicate,
        .dropped][v.toNat]? = some k →
      ∃ t, exec (.cntselWrite v) s = .next t ∧
        t = { s with hp := { s.hp with cntSel := k } } ∧ registerByte t 0x30 = v ∧
        t.hp.latch = s.hp.latch) ∧
    (7 < v.toNat →
      exec (.cntselWrite v) s = .next { s with hp := { s.hp with configError := true } }) ∧
    (∀ t, exec .resetAsserted s = .next t → t.hp.cntSel = .sent) ∧
    (∀ t, exec .clear s = .next t → t.hp.cntSel = s.hp.cntSel)

/-- WINSEL and WINOFS writes (R193): a slot number or 10h is taken with the offset set to 0, an offset up
to 239 is taken, any other value is ignored and sets the window error; both read back as they stand. After
hardware reset the window selects slot 0 with offset 0. -/
def Obligations.WindowSelectAndOffset : Prop :=
  ∀ (s : State) (v : Byte), s.resetLow = false →
    (∀ n : SlotId, v = byteOf n.val →
      exec (.winselWrite v) s = .next { s with hp := { s.hp with winSel := .slot n, winOfs := 0 } }) ∧
    (v = 0x10 →
      exec (.winselWrite v) s = .next { s with hp := { s.hp with winSel := .rxHead, winOfs := 0 } }) ∧
    (16 < v.toNat →
      exec (.winselWrite v) s = .next { s with hp := { s.hp with windowError := true } }) ∧
    (v.toNat ≤ 239 →
      exec (.winofsWrite v) s = .next { s with hp := { s.hp with winOfs := v.toNat } }) ∧
    (239 < v.toNat →
      exec (.winofsWrite v) s = .next { s with hp := { s.hp with windowError := true } }) ∧
    (∀ n, s.hp.winSel = .slot n → registerByte s 0x1C = byteOf n.val) ∧
    (s.hp.winSel = .rxHead → registerByte s 0x1C = 0x10) ∧
    (s.hp.winOfs ≤ 240 → (registerByte s 0x1D).toNat = s.hp.winOfs) ∧
    (∀ t, exec .resetAsserted s = .next t → t.hp.winSel = .slot 0 ∧ t.hp.winOfs = 0)

/-- WINDATA accesses (R194): an allowed write stores the byte at the address that R51 gives for the offset
and changes no other byte; an allowed read drives that byte. A write is refused with a slot that is not LOADING or
an offset at or above its length, and always with the RX head; a read with a slot that is FREE or DONE, with an
offset at or above the length of the slot or of the head, and with an empty queue. A refused access changes no byte,
drives 00h on a read and sets the window error. Every access steps the offset, up to 240. -/
def Obligations.WindowDataAccess : Prop :=
  ∀ (s : State) (v : Byte) (a : Nat), s.resetLow = false →
    (∀ n sl, s.hp.winSel = .slot n → slotAt s n = some sl → sl.phase = .loading →
      s.hp.winOfs < sl.length → messageAddress sl.chain s.hp.winOfs = some a →
      Memory.wf s.bp.mem = true →
      ∃ t, exec (.windataWrite v) s = .next t ∧
        t = { s with
          bp := { s.bp with mem := t.bp.mem }
          hp := { s.hp with winOfs := min 240 (s.hp.winOfs + 1) } } ∧
        Memory.read t.bp.mem a = v ∧
        ∀ b, b ≠ a → Memory.read t.bp.mem b = Memory.read s.bp.mem b) ∧
    (∀ n sl, s.hp.winSel = .slot n → slotAt s n = some sl → sl.phase.outcome = none →
      s.hp.winOfs < sl.length → messageAddress sl.chain s.hp.winOfs = some a →
      exec .windataRead s = .next { s with hp := { s.hp with
        dataOut := Memory.read s.bp.mem a, winOfs := min 240 (s.hp.winOfs + 1) } }) ∧
    (∀ e rest, s.hp.winSel = .rxHead → s.rq.entries = e :: rest → s.hp.winOfs < e.length →
      messageAddress e.chain s.hp.winOfs = some a →
      exec .windataRead s = .next { s with hp := { s.hp with
        dataOut := Memory.read s.bp.mem a, winOfs := min 240 (s.hp.winOfs + 1) } }) ∧
    (s.hp.winSel = .rxHead ∨
      (∃ n, s.hp.winSel = .slot n ∧
        ∀ sl, slotAt s n = some sl → sl.phase = .loading → sl.length ≤ s.hp.winOfs) →
      exec (.windataWrite v) s = .next { s with hp := { s.hp with
        windowError := true, winOfs := min 240 (s.hp.winOfs + 1) } }) ∧
    ((s.hp.winSel = .rxHead ∧ ∀ e rest, s.rq.entries = e :: rest → e.length ≤ s.hp.winOfs) ∨
      (∃ n, s.hp.winSel = .slot n ∧
        ∀ sl, slotAt s n = some sl → sl.phase.outcome = none → sl.length ≤ s.hp.winOfs) →
      exec .windataRead s = .next { s with hp := { s.hp with
        dataOut := 0, windowError := true, winOfs := min 240 (s.hp.winOfs + 1) } })

/-- When each cause is pending (R178). A write of INTEN (R179, R201) replaces the six enables; INTID then names the
first pending enabled cause in the order of priority and names one whenever there is one (R180), and INT# is
asserted exactly while it does (R181). -/
def Obligations.InterruptEnablesAndIdentification : Prop :=
  (∀ s : State,
     causePending s .fault = s.sc.faultEvent ∧ causePending s .drop = s.rq.drop ∧
     (causePending s .rxReady = true ↔ s.cfg.rxtrig ≤ s.rq.entries.length) ∧
     causePending s .rxStale = s.rq.rxStale ∧
     (causePending s .txDone = true ↔ s.ts.completion ≠ []) ∧
     (causePending s .flow = true ↔
       s.iu.flowEntered = true ∨ s.iu.flowLeft = true ∨ s.iu.flowBusy = true ∨
         s.iu.flowReleased = true)) ∧
  ∀ (s : State) (v : Byte), s.resetLow = false →
    ∃ t, exec (.intenWrite v) s = .next t ∧
      t = { s with iu := { s.iu with inten := v.extractLsb' 0 6 } } ∧
      registerByte t 0x0E = v &&& 0x3F ∧
      (intAsserted t = true ↔ registerByte t 0x0D ≠ 0) ∧
      (registerByte t 0x0D ≠ 0 ↔
        ∃ k, causePending t k = true ∧ v.getLsbD (k.priority - 1) = true) ∧
      ∀ k : Cause, (registerByte t 0x0D).toNat = k.priority →
        causePending t k = true ∧ v.getLsbD (k.priority - 1) = true ∧
        ∀ j : Cause, j.priority < k.priority →
          causePending t j = false ∨ v.getLsbD (j.priority - 1) = false

/-- DIVL stages its byte; DIVH forms the value and takes it in OFFLINE within 1 to 4095, else sets CONFIG_ERROR;
DIVL and DIVH read DIV and not the staged byte (R192). Water-mark writes (R125): refused out of range or when
LOWAT would not stay below HIWAT; a taken write re-evaluates congestion at once, in every one of its cases
(`CongestionTested`). RXTRIG judges the stale timer (R121, R122); STALE is 1 to 255 (R123). -/
def Obligations.ConfigurationWrites : Prop :=
  (∀ (s : State) (v : Byte) (d : Nat), s.resetLow = false →
     d = v.toNat * 256 + s.hp.divLow.toNat →
     (∃ t, exec (.divlWrite v) s = .next t ∧ t = { s with hp := { s.hp with divLow := v } } ∧
       (s.cfg.div ≤ 4095 →
         (registerByte t 0x20).toNat + 256 * (registerByte t 0x21).toNat = s.cfg.div)) ∧
     (s.sc.station ≠ .offline ∨ d = 0 ∨ 4095 < d →
       exec (.divhWrite v) s = .next { s with hp := { s.hp with configError := true } }) ∧
     (s.sc.station = .offline → 1 ≤ d → d ≤ 4095 →
       ∃ t, exec (.divhWrite v) s = .next t ∧ t = { s with cfg := { s.cfg with div := d } } ∧
         (registerByte t 0x20).toNat + 256 * (registerByte t 0x21).toNat = d)) ∧
  (∀ (s : State) (v : Byte), s.resetLow = false →
     (v.toNat = 0 ∨ 24 < v.toNat ∨ v.toNat ≤ s.cfg.lowat →
       exec (.hiwatWrite v) s = .next { s with hp := { s.hp with configError := true } }) ∧
     (1 ≤ v.toNat → v.toNat ≤ 24 → s.cfg.lowat < v.toNat →
       ∃ t, exec (.hiwatWrite v) s = .next t ∧
         CongestionTested { s with cfg := { s.cfg with hiwat := v.toNat } } t) ∧
     (23 < v.toNat ∨ s.cfg.hiwat ≤ v.toNat →
       exec (.lowatWrite v) s = .next { s with hp := { s.hp with configError := true } }) ∧
     (v.toNat ≤ 23 → v.toNat < s.cfg.hiwat →
       ∃ t, exec (.lowatWrite v) s = .next t ∧
         CongestionTested { s with cfg := { s.cfg with lowat := v.toNat } } t) ∧
     (v.toNat = 0 ∨ 24 < v.toNat →
       exec (.rxtrigWrite v) s = .next { s with hp := { s.hp with configError := true } }) ∧
     (1 ≤ v.toNat → v.toNat ≤ 24 →
       exec (.rxtrigWrite v) s = .next { s with
         cfg := { s.cfg with rxtrig := v.toNat }
         rq := { s.rq with stale :=
           (if 0 < s.rq.entries.length ∧ s.rq.entries.length < v.toNat ∧ s.rq.rxStale = false
            then some (s.rq.stale.getD 0) else none) } }) ∧
     (v = 0 → exec (.staleWrite v) s = .next { s with hp := { s.hp with configError := true } }) ∧
     (v ≠ 0 → exec (.staleWrite v) s = .next { s with cfg := { s.cfg with stale := v.toNat } }))

/-- The writes that REGISTER_WRITE stands for (R188, R189, R191, R201): ARG0 to ARG3, RETRY, RESERVE,
HOLDOFF, FAULTLIM, RXOPT; a read-only register and an offset without a register ignore the write. -/
def Obligations.OtherRegisterWrites : Prop :=
  ∀ (s : State) (v : Byte), s.resetLow = false →
    (∀ i : Fin 4, ∃ t, exec (.registerWrite (BitVec.ofNat 6 (4 + i.val)) v) s = .next t ∧
      t = { s with hp := { s.hp with args := t.hp.args } } ∧ t.hp.args.get i = v ∧
      ∀ j, j ≠ i → t.hp.args.get j = s.hp.args.get j) ∧
    exec (.registerWrite 0x26 v) s = .next
      (if v.toNat ≤ 7 then { s with cfg := { s.cfg with retry := v.toNat } }
      else { s with hp := { s.hp with configError := true } }) ∧
    exec (.registerWrite 0x27 v) s = .next
      (if v.toNat ≤ 64 then { s with cfg := { s.cfg with reserve := v.toNat } }
      else { s with hp := { s.hp with configError := true } }) ∧
    exec (.registerWrite 0x28 v) s = .next
      (if v ≠ 0 then { s with cfg := { s.cfg with holdoff := v.toNat } }
      else { s with hp := { s.hp with configError := true } }) ∧
    exec (.registerWrite 0x29 v) s = .next
      (if 1 ≤ v.toNat ∧ v.toNat ≤ 15 then { s with cfg := { s.cfg with faultlim := v.toNat } }
      else { s with hp := { s.hp with configError := true } }) ∧
    exec (.registerWrite 0x2A v) s = .next
      { s with cfg := { s.cfg with
          broadcastAccept := v.getLsbD 0, keepDamaged := v.getLsbD 1 } } ∧
    ∀ offset : BitVec 6, offset.toNat ∈ [0x00, 0x01, 0x03, 0x08, 0x09, 0x0A, 0x0B, 0x0C, 0x0D, 0x0F,
        0x10, 0x11, 0x12, 0x13, 0x14, 0x15, 0x16, 0x17, 0x18, 0x19, 0x1A, 0x1B, 0x1F, 0x2B, 0x2C, 0x2D,
        0x2E, 0x2F, 0x31, 0x32] ∨ 0x33 ≤ offset.toNat →
      exec (.registerWrite offset v) s = .next s

/-! ### Reception -/

/-- A start bit of another station, where no mark of the quiet count before it is left to take (`MarksTaken`). In
HUNT (R95, R98, R39, R6) it opens a record with the gap guard clear, or once the count stands at 4; the record is
the candidate of an open window, and LAC enters RECEIVE. With the guard set below 4 and no window open it is a
stray. In RECOVER (R96) it restarts the quiet count below 11, and from 11 on RECOVER has ended and it opens a record
(R8). A response order not yet begun is cancelled (R37); that it is cancelled in RECOVER too is read by inference
(log 26). Inside a frame it begins the next character (log 22). A mark that is due is taken before it, so that it
makes no difference whether the row of the mark comes first (log 32). In LOOP it changes nothing. -/
def Obligations.StartBitByTheReceiverState : Prop :=
  (∀ s u : State, s.resetLow = false → s.sc.station.readsLine → s.lac.mode.drives = false →
     MarksTaken s →
     u = { s with
       lac := { s.lac with quiet := 0, order := none, window := none, mode := .receive }
       fr := { s.fr with
         mode := .header, guard := false
         record := some { Rx.empty with candidate := s.lac.window.isSome } } } →
     (s.fr.mode = .hunt → s.fr.guard = false ∨ 4 ≤ s.lac.quiet → exec .startBit s = .next u) ∧
     (s.fr.mode = .hunt → s.fr.guard = true → s.lac.quiet < 4 → s.fr.record = none →
       s.lac.window = none →
       exec .startBit s = .next { s with
         lac := { s.lac with quiet := 0, order := none }
         fr := { s.fr with mode := .recover, guard := false }
         ctr := { s.ctr with stray := bump s.ctr.stray } }) ∧
     (s.fr.mode = .recover → s.lac.quiet < 11 →
       exec .startBit s = .next { s with lac := { s.lac with quiet := 0, order := none } }) ∧
     (s.fr.mode = .recover → 11 ≤ s.lac.quiet → exec .startBit s = .next u) ∧
     (∀ r, s.fr.mode = .header ∨ s.fr.mode = .body ∨ s.fr.mode = .check → s.fr.record = some r →
       exec .startBit s = .next { s with
         lac := { s.lac with quiet := 0 }
         fr := { s.fr with record := some { r with inChar := true } } })) ∧
  (∀ (s t : State) (m : Instr) (rest : List Instr), s.resetLow = false → s.sc.station.readsLine →
     s.lac.mode.drives = false → dueMarks s = m :: rest → exec m s = .next t →
     exec .startBit s = exec .startBit t) ∧
  ∀ s : State, s.sc.station = .loop → exec .startBit s = .next s

/-- The header characters of a frame, from LRX or in LOOP from the internal path (R99, R100, R101, R113): LEAD gives
class and source, CONTROL kind, SEQ and RESYNC, DEST the acceptance of a DATA or DATAGRAM frame; each is counted
and enters the check register. The LEAD of a lead that this station lost is the lead bits that LAC passed on,
completed from the line (R29, R97). A character with which the header is malformed (R100, R16): DAMAGED counts, a
failed candidate is reported, nothing is kept, FR enters RECOVER and LAC returns to QUIET. -/
def Obligations.HeaderCharactersAreRecorded : Prop :=
  (∀ (leadBits : List LineBit) (v : Byte) (i : Fin 8), leadBits.length ≤ 8 →
     (completedByte leadBits v).getLsbD (7 - i.val) =
       match leadBits[i.val]? with
       | some bit => decide (bit = .recessive)
       | none => v.getLsbD (7 - i.val)) ∧
  ∀ (v : Byte) (stop : LineBit) (s u : State) (r : Rx) (b : Byte) (q : Nat),
    CharacterArrives v stop s r b .recessive u → s.fr.mode = .header →
    q = quietAtStop b .recessive →
    (r.count = 0 → b.toNat % 64 ≤ 47 → ∀ c : Sys2Proof.Class, c.toNat = b.toNat / 64 →
      exec (.characterReceived v stop) s = .next { u with
        lac := { u.lac with quiet := q }
        fr := { u.fr with record := some { r with
          count := 1, inChar := false, leadBits := [], crc := crcByte r.crc b, cls := c,
          src := b.toNat % 64 } } }) ∧
    (r.count = 1 → ∀ k : Kind, kindCode k = b.toNat / 16 →
      exec (.characterReceived v stop) s = .next { u with
        lac := { u.lac with quiet := q }
        fr := { u.fr with record := some { r with
          count := 2, inChar := false, leadBits := [], crc := crcByte r.crc b, kind := k, seq := b.getLsbD 0,
          resync := b.getLsbD 1 } } }) ∧
    (r.count = 2 → r.kind = .data ∨ r.kind = .datagram →
      b.toNat ≤ 47 ∨ (r.kind = .datagram ∧ b.toNat ≤ 63) →
      exec (.characterReceived v stop) s = .next { u with
        lac := { u.lac with quiet := q }
        fr := { u.fr with record := some { r with
          count := 3, inChar := false, leadBits := [], crc := crcByte r.crc b, dest := b.toNat
          accepted :=
            if b.toNat ≤ 47 then (if s.sc.address = some b.toNat then some .own else none)
            else if b.toNat ≤ 62 then (if b.toNat ∈ s.fr.groups then some .group else none)
            else if s.cfg.broadcastAccept then some .broadcast else none } } }) ∧
    (r.count = 2 → ((r.kind = .ack ∨ r.kind = .busy) ∧ b.toNat ≤ 47) ∨ (r.kind = .ready ∧ b.toNat = 63) →
      exec (.characterReceived v stop) s = .next { u with
        lac := { u.lac with quiet := q }
        fr := { u.fr with record := some { r with
          count := 3, inChar := false, leadBits := [], crc := crcByte r.crc b, dest := b.toNat,
          accepted := none } } }) ∧
    ((r.count = 0 ∧ 47 < b.toNat % 64) ∨
     (r.count = 1 ∧ (b.toNat / 16 = 0 ∨ 5 < b.toNat / 16)) ∨
     (r.count = 2 ∧ (r.kind = .data ∨ r.kind = .ack ∨ r.kind = .busy) ∧ 47 < b.toNat) ∨
     (r.count = 2 ∧ r.kind = .datagram ∧ 63 < b.toNat) ∨
     (r.count = 2 ∧ r.kind = .ready ∧ b.toNat ≠ 63) ∨
     (r.count = 3 ∧ (r.kind = .data ∨ r.kind = .datagram) ∧ 240 < b.toNat) ∨
     (r.count = 3 ∧ r.kind = .ready ∧ 16 < b.toNat) →
      ∀ c, c = candidateFailed r (receptionOver .recover false q u) →
      ∃ t, exec (.characterReceived v stop) s = .next t ∧
        ReturnsToQuiet s { c with
          ctr := { c.ctr with damaged := bump c.ctr.damaged }
          bp := { c.bp with free := c.bp.free ++ r.chain } } t)

/-- The fourth character, from LRX or in LOOP (R100, R104, R105, R113). LENGTH of an accepted frame makes the claim
(R54): all or nothing, from the head of the free list, with room in the queue; then BODY, or CHECK for a LENGTH of
0. A frame that is not accepted, and a READY frame, claim nothing; ACK and BUSY give their REASON and go on to
CHECK. -/
def Obligations.LengthMakesTheClaim : Prop :=
  ∀ (v : Byte) (stop : LineBit) (s u : State) (r : Rx) (b : Byte) (q : Nat),
    CharacterArrives v stop s r b .recessive u → s.fr.mode = .header → r.count = 3 →
    q = quietAtStop b .recessive →
    (∀ sort, r.kind = .data ∨ r.kind = .datagram → r.accepted = some sort → b.toNat ≤ 240 →
      (blocksFor b.toNat ≤ s.bp.free.length → s.rq.entries.length < 24 →
        exec (.characterReceived v stop) s = .next { u with
          lac := { u.lac with quiet := q }
          bp := { u.bp with free := s.bp.free.drop (blocksFor b.toNat) }
          fr := { u.fr with
            mode := if b.toNat = 0 then .check else .body
            record := some { r with
              count := 4, inChar := false, leadBits := [], crc := crcByte r.crc b, length := b.toNat,
              claim := .succeeded, chain := s.bp.free.take (blocksFor b.toNat) } } }) ∧
      (s.bp.free.length < blocksFor b.toNat ∨ 24 ≤ s.rq.entries.length →
        exec (.characterReceived v stop) s = .next { u with
          lac := { u.lac with quiet := q }
          fr := { u.fr with
            mode := if b.toNat = 0 then .check else .body
            record := some { r with
              count := 4, inChar := false, leadBits := [], crc := crcByte r.crc b, length := b.toNat,
              claim := .failed } } })) ∧
    (((r.kind = .data ∨ r.kind = .datagram) ∧ r.accepted = none ∧ b.toNat ≤ 240) ∨
     (r.kind = .ready ∧ b.toNat ≤ 16) →
      exec (.characterReceived v stop) s = .next { u with
        lac := { u.lac with quiet := q }
        fr := { u.fr with
          mode := if b.toNat = 0 then .check else .body
          record := some { r with
            count := 4, inChar := false, leadBits := [], crc := crcByte r.crc b, length := b.toNat } } }) ∧
    (r.kind = .ack ∨ r.kind = .busy →
      exec (.characterReceived v stop) s = .next { u with
        lac := { u.lac with quiet := q }
        fr := { u.fr with
          mode := .check
          record := some { r with
            count := 4, inChar := false, leadBits := [], crc := crcByte r.crc b, reason := b } } })

/-- The characters after the header, from LRX or in LOOP (R55, R105, R113). A payload character of a claimed frame
is stored at the address that R51 gives for the received count, every other byte of message memory as before;
one of a frame without a claim is not stored; a list character of a READY frame joins its list. Each is counted
and taken into the check register, and the last one leads to CHECK. The first CHECK character is counted and kept,
and does not enter the register. -/
def Obligations.PayloadIsStoredAtItsOffset : Prop :=
  ∀ (v : Byte) (stop : LineBit) (s u : State) (r r' : Rx) (b : Byte) (q : Nat) (m : FrMode),
    CharacterArrives v stop s r b .recessive u → q = quietAtStop b .recessive →
    r' = { r with count := r.count + 1, inChar := false, leadBits := [], crc := crcByte r.crc b } →
    m = (if r.length + 4 ≤ r.count + 1 then .check else .body) →
    (∀ a, s.fr.mode = .body → r.kind = .data ∨ r.kind = .datagram → r.claim = .succeeded →
      Memory.wf s.bp.mem = true → messageAddress r.chain r.received = some a →
      ∃ t, exec (.characterReceived v stop) s = .next t ∧
        t = { u with
          lac := { u.lac with quiet := q }
          bp := { u.bp with mem := t.bp.mem }
          fr := { u.fr with mode := m, record := some { r' with received := r.received + 1 } } } ∧
        Memory.read t.bp.mem a = b ∧
        ∀ x, x ≠ a → Memory.read t.bp.mem x = Memory.read s.bp.mem x) ∧
    (s.fr.mode = .body → r.kind = .data ∨ r.kind = .datagram → r.claim ≠ .succeeded →
      exec (.characterReceived v stop) s = .next { u with
        lac := { u.lac with quiet := q }
        fr := { u.fr with mode := m, record := some r' } }) ∧
    (s.fr.mode = .body → r.kind = .ready →
      exec (.characterReceived v stop) s = .next { u with
        lac := { u.lac with quiet := q }
        fr := { u.fr with mode := m, record := some { r' with list := r.list ++ [b] } } }) ∧
    (s.fr.mode = .check → r.count = (match r.kind with | .ack | .busy => 4 | _ => r.length + 4) →
      exec (.characterReceived v stop) s = .next { u with
        lac := { u.lac with quiet := q }
        fr := { u.fr with record := some { r with
          count := r.count + 1, inChar := false, leadBits := [], checkHigh := b } } })

/-- The end of a reception, from LRX or in LOOP (R106, R21, R74): at the frame end FR hunts with its guard set below
a quiet count of 4, a candidate that has failed is reported, and LAC returns to QUIET. A good accepted DATAGRAM, or
DATA heard in LISTEN or SILENT (UNANSWERED), counts in RECEIVED and is appended when its claim succeeded, and is a
loss otherwise (R108, R110, R132). A good frame that was not accepted is released uncounted. A good READY that
names this station releases a remote-busy source (R154). A good ACK or BUSY without the mark is passed over. A bad
check and a framing error are damage (R107, R99), after the latter FR is in RECOVER. What an append does
(R117, R122, R124, R195). -/
def Obligations.GoodDatagramIsAppended : Prop :=
  (∀ (v : Byte) (stop : LineBit) (s u c : State) (r : Rx) (b : Byte),
     FrameEnds v stop s r b u →
     c = candidateFailed r (receptionOver .hunt (decide (quietAtStop b .recessive < 4))
       (quietAtStop b .recessive) u) →
     (checkChars r.crc = [r.checkHigh, b] →
       (∀ sort, r.accepted = some sort →
         (r.kind = .datagram ∨
           (r.kind = .data ∧ (s.sc.station = .listen ∨ s.sc.station = .silent))) →
         (r.claim = .succeeded → r.chain.length = blocksFor r.length →
           ∃ t, exec (.characterReceived v stop) s = .next t ∧
             ReturnsToQuiet s
               (appendEntry
                 { src := r.src, dest := r.dest, sort := sort, cls := r.cls,
                   kind := if r.kind = .data then .data else .datagram,
                   length := r.length, declared := none,
                   tags := { Tags.none with unanswered := decide (r.kind = .data) },
                   chain := r.chain }
                 { c with ctr := { c.ctr with received := bump c.ctr.received } }) t) ∧
         (r.claim ≠ .succeeded →
           ∃ t, exec (.characterReceived v stop) s = .next t ∧
             ReturnsToQuiet s
               { c with
                 bp := { c.bp with free := c.bp.free ++ r.chain }
                 rq := { c.rq with drop := true, loss := true }
                 ctr := { c.ctr with
                   received := bump c.ctr.received, dropped := bump c.ctr.dropped } } t)) ∧
       (r.accepted = none → r.kind = .data ∨ r.kind = .datagram →
         ∃ t, exec (.characterReceived v stop) s = .next t ∧
           ReturnsToQuiet s { c with bp := { c.bp with free := c.bp.free ++ r.chain } } t) ∧
       (r.kind = .ready →
         ((∀ p, findPeer c.pt r.src = some p → p.holdoff = none ∨ ¬ readyNames r s) →
           ∃ t, exec (.characterReceived v stop) s = .next t ∧ ReturnsToQuiet s c t) ∧
         (∀ p, findPeer c.pt r.src = some p → p.holdoff ≠ none → readyNames r s →
           ∃ t w, exec (.characterReceived v stop) s = .next t ∧
             Reevaluated { c with
               pt := c.pt.map fun x => if x.node = r.src then { x with holdoff := none } else x
               iu := { c.iu with flowReleased := true } } w ∧
             ReturnsToQuiet s w t)) ∧
       (r.kind = .ack ∨ r.kind = .busy → r.candidate = false →
         ∃ t, exec (.characterReceived v stop) s = .next t ∧ ReturnsToQuiet s c t)) ∧
     (checkChars r.crc ≠ [r.checkHigh, b] →
       ∃ t, exec (.characterReceived v stop) s = .next t ∧
         ReturnsToQuiet s (damagedDealt r r.length none
           { Tags.none with crcBad := true, unanswered := unanswered r s } c) t)) ∧
  (∀ (v : Byte) (stop : LineBit) (s u : State) (r : Rx) (b : Byte),
     CharacterArrives v stop s r b .dominant u →
     s.fr.mode = .header ∨ s.fr.mode = .body ∨ s.fr.mode = .check →
     ∃ t, exec (.characterReceived v stop) s = .next t ∧
       ReturnsToQuiet s (damagedDealt r (if s.fr.mode = .check then r.length else r.received) none
         { Tags.none with framing := true, unanswered := unanswered r s }
         (candidateFailed r (receptionOver .recover false 0 u))) t) ∧
  ∀ (e : Entry) (s : State) (reached : Bool),
    reached = decide (s.cfg.hiwat ≤ s.rq.entries.length + 1) →
    appendEntry e s = { s with
      rq := { s.rq with
        entries := s.rq.entries ++ [{ e with tags := { e.tags with lossBefore := s.rq.loss } }]
        loss := false
        rxStale := false
        stale := if s.rq.entries.length + 1 < s.cfg.rxtrig then some 0 else none
        congested := s.rq.congested || reached }
      iu := { s.iu with flowEntered := s.iu.flowEntered || (!s.rq.congested && reached) }
      hp := { s.hp with
        winOfs := if s.rq.entries = [] then offsetAtNewHead s else s.hp.winOfs } }

/-- A good accepted DATA frame that ends in ONLINE or LOOP counts in RECEIVED and is decided (R108, R156). The
receiver decision (R157, R158, R159): for a source that has an entry, the first row that applies gives the response,
what becomes of the chain, and what is counted, refused or lost. A source without an entry gets one first, with an
eviction where the table is full (R143); with none to be created, BUSY NO_PEER, the chain released and no entry made.
An entry that takes the last free place, with no entry evictable, leaves none for a presentation taken after it at the
same moment (R144, first row; log 29). Row 5 is taken for every claim that did not succeed, which is read by inference
(log 27). -/
def Obligations.ReceiverDecision : Prop :=
  (∀ (s t : State) (r : Rx) (p : Peer), findPeer s.pt r.src = some p → r.kind = .data →
     t = decideData r s →
     (p.rxKnown = true ∧ p.rxSeq = r.seq ∧ (r.resync = true → p.rxResync = true) →
       t = { s with
         lac := { s.lac with order := some {
           kind := .ack, reason := 0, seq := r.seq, dest := r.src, createdAt := none } }
         bp := { s.bp with free := s.bp.free ++ r.chain }
         pt := p :: s.pt.filter fun q => q.node ≠ r.src
         ctr := { s.ctr with duplicate := bump s.ctr.duplicate } }) ∧
     (¬ (p.rxKnown = true ∧ p.rxSeq = r.seq ∧ (r.resync = true → p.rxResync = true)) →
       (s.rq.paused = true ∨ s.rq.congested = true →
         t = { s with
           lac := { s.lac with order := some {
             kind := .busy, reason := if s.rq.paused then 2 else 1, seq := r.seq, dest := r.src, createdAt := none } }
           bp := { s.bp with free := s.bp.free ++ r.chain }
           pt := p :: s.pt.filter fun q => q.node ≠ r.src
           rq := { s.rq with
             refused :=
               (if r.src ∉ s.rq.refused ∧ s.rq.refused.length < 16 then s.rq.refused ++ [r.src]
               else s.rq.refused)
             overflow := s.rq.overflow ||
               decide (r.src ∉ s.rq.refused ∧ 16 ≤ s.rq.refused.length) } }) ∧
       (s.rq.paused = false → s.rq.congested = false →
         (r.claim ≠ .succeeded →
           t = { s with
             lac := { s.lac with order := some {
               kind := .busy, reason := 3, seq := r.seq, dest := r.src, createdAt := none } }
             bp := { s.bp with free := s.bp.free ++ r.chain }
             pt := p :: s.pt.filter fun q => q.node ≠ r.src
             rq := { s.rq with drop := true, loss := true }
             ctr := { s.ctr with dropped := bump s.ctr.dropped } }) ∧
         (r.claim = .succeeded → r.chain.length = blocksFor r.length →
           ∃ w, w = appendEntry
               { src := r.src, dest := r.dest, sort := .own, cls := r.cls, kind := .data,
                 length := r.length, declared := none,
                 tags := { Tags.none with adopted := !p.rxKnown && !r.resync },
                 chain := r.chain }
               { s with pt :=
                 { p with rxKnown := true, rxSeq := r.seq, rxResync := r.resync } ::
                   s.pt.filter fun q => q.node ≠ r.src } ∧
             t = { w with lac := { w.lac with order := some {
               kind := .ack, reason := 0, seq := r.seq, dest := r.src, createdAt := none } } })))) ∧
  (∀ (s : State) (r : Rx) (room : List Peer), (∀ p ∈ s.pt, p.node ≠ r.src) →
     (s.pt.length < 16 ∧ room = s.pt) ∨ (16 ≤ s.pt.length ∧ evictOne none s.pt = some room) →
     ∃ t, t = decideData r { s with pt :=
         { node := r.src, synced := false, txSeq := false, holdoff := none, rxKnown := false,
           rxSeq := false, rxResync := false, active := false } :: room } ∧
       decideData r s = { t with lac := { t.lac with
         order := t.lac.order.map fun o => { o with
           createdAt := if s.pt.length = 15 ∧ ∀ p ∈ s.pt, p.active = true ∨ p.holdoff.isSome = true
             then some s.lac.quiet else none } } }) ∧
  (∀ (s t : State) (r : Rx), (∀ p ∈ s.pt, p.node ≠ r.src) → s.pt.length = 15 →
     (∀ p ∈ s.pt, p.active = true ∨ p.holdoff.isSome) → t = decideData r s →
     ∀ n sl, slotAt t n = some sl → sl.kind = .data → (∀ p ∈ t.pt, p.node ≠ sl.dest) →
       eligible t n = false) ∧
  (∀ (s : State) (r : Rx), (∀ p ∈ s.pt, p.node ≠ r.src) → 16 ≤ s.pt.length →
     (∀ p ∈ s.pt, p.active = true ∨ p.holdoff.isSome) →
     decideData r s = { s with
       lac := { s.lac with order := some {
         kind := .busy, reason := 4, seq := r.seq, dest := r.src, createdAt := none } }
       bp := { s.bp with free := s.bp.free ++ r.chain } }) ∧
  (∀ (v : Byte) (stop : LineBit) (s u c : State) (r : Rx) (b : Byte) (sort : DestSort),
     FrameEnds v stop s r b u → checkChars r.crc = [r.checkHigh, b] → r.kind = .data →
     r.accepted = some sort → s.sc.station = .online ∨ s.sc.station = .loop →
     c = candidateFailed r (receptionOver .hunt (decide (quietAtStop b .recessive < 4))
       (quietAtStop b .recessive) u) →
     ∃ t, exec (.characterReceived v stop) s = .next t ∧
       ReturnsToQuiet s
         (decideData r { c with ctr := { c.ctr with received := bump c.ctr.received } }) t)

/-- The marks of the quiet count that free FR and the demotion flags (R95, R96, R24); a mark that the count has
passed on the way is taken with them. A dominant bit in RECOVER restarts the quiet count (R96) and cancels a
response order not yet begun (R37; in RECOVER by inference, log 26); from a count of 11 on RECOVER has ended and the
row changes nothing (logs 4 and 32). A character of another station in RECOVER is passed over in the same way, and
leaves the recessive bits that end it in the count (R96, R5). Truncation at the gap limit between two characters
(R8, R99, R107): a failed candidate is reported, DAMAGED counts, the frame is kept under keep-damaged or its chain
is released, FR hunts with its guard clear, LAC returns to QUIET. That a row raises the quiet count to its mark is
the model's choice (log 3). -/
def Obligations.MarksOfTheQuietCount : Prop :=
  (∀ s : State, s.resetLow = false →
     (s.fr.mode = .hunt → s.fr.guard = true →
       exec .gapGuardClear s = .next { s with
         lac := { s.lac with quiet := max s.lac.quiet 4 }
         fr := { s.fr with guard := false } }) ∧
     (s.fr.mode = .recover →
       exec .gapLimitRecover s = .next { s with
         lac := { s.lac with quiet := max s.lac.quiet 11 }
         fr := { s.fr with mode := .hunt, guard := false } }) ∧
     (s.fr.mode = .recover → s.sc.station.readsLine → s.lac.quiet < 11 → MarksTaken s →
       exec .dominantBitInRecover s = .next { s with
         lac := { s.lac with quiet := 0, order := none } }) ∧
     (11 ≤ s.lac.quiet → exec .dominantBitInRecover s = .next s) ∧
     (∀ v stop, s.fr.mode = .recover → s.sc.station.readsLine → s.lac.mode.drives = false →
       s.lac.quiet < 11 → MarksTaken s → s.fr.record = none →
       exec (.characterReceived v stop) s = .next { s with lac := { s.lac with
         quiet := quietAtStop v stop, order := none } }) ∧
     (∀ c : Sys2Proof.Class, s.lac.mode = .quiet → s.lac.demoted.get c = true →
       exec (.demotionClear c) s = .next { s with
         lac := { s.lac with
           quiet := max s.lac.quiet (13 + 2 * c.toNat), demoted := s.lac.demoted.set c false }
         fr := if s.fr.mode = .hunt ∨ s.fr.mode = .recover then
             { s.fr with mode := .hunt, guard := false }
           else s.fr })) ∧
  (∀ (s : State) (r : Rx), s.resetLow = false →
     s.fr.mode = .header ∨ s.fr.mode = .body ∨ s.fr.mode = .check → s.fr.record = some r →
     r.inChar = false →
     ∃ t, exec .gapLimitTruncation s = .next t ∧
       ReturnsToQuiet s (damagedDealt r (if s.fr.mode = .check then r.length else r.received)
         (some r.length) { Tags.none with truncated := true, unanswered := unanswered r s }
         (candidateFailed r (receptionOver .hunt false (max s.lac.quiet 11) s))) t)

/-! ### Sending -/

/-- LEAD_START (R26, R31, R76): LAC enters CONTEND with the frame of its offer, and every demotion flag whose mark
the count has reached is normal (R24). A slot goes to SENDING and leaves its class queue, and its frame is formed
from it and, for DATA, from its peer entry (R148). The notice is committed, and its READY frame of class 1 names its
contents as they stand, no address for all (R130). In LOOP the frame goes on the internal path and FR takes its
start bit (R113, R174). The count that the row brings is the model's choice (log 3). -/
def Obligations.LeadStartCommitsTheSlot : Prop :=
  ∀ (s u : State) (src q : Nat) (offer : Offer) (cls : Sys2Proof.Class) (chars : List Byte) (source : BurstSource),
    s.resetLow = false → s.sc.station = .online ∨ s.sc.station = .loop → s.sc.address = some src →
    s.lac.mode = .quiet → s.lac.order = none → s.lac.window = none →
    s.fr.mode = .hunt ∨ s.fr.mode = .recover → s.lac.offer = some offer →
    q = max s.lac.quiet (12 + 2 * cls.toNat + if s.lac.demoted.get cls then 1 else 0) →
    u = { s with
      lac := { s.lac with
        mode := .contend
        offer := none
        quiet := q
        demoted := s.lac.demoted.mapWith fun c d => d && decide (q < 13 + 2 * c.toNat)
        burst := some { source := source, chars := withCheck chars, bits := 0 }
        path := if s.sc.station = .loop then withCheck chars else [] }
      fr := if s.sc.station = .loop then
          { s.fr with mode := .header, guard := false, record := some Rx.empty }
        else { s.fr with mode := .hunt, guard := false } } →
    (∀ n sl payload control seq, offer = .slot n → slotAt s n = some sl → sl.phase = .offered →
      cls = sl.cls → messageBytes s sl.chain sl.length = some payload →
      (match sl.kind with
        | .datagram => control = 0x20 ∧ seq = false
        | .data => ∃ p, findPeer s.pt sl.dest = some p ∧ seq = p.txSeq ∧
            control = byteOf (16 + (if p.synced then 0 else 2) + (if p.txSeq then 1 else 0))) →
      source = .slot n ((s.ts.queues.get sl.cls).takeWhile fun m => m ≠ n) →
      chars = [byteOf (64 * sl.cls.toNat + src), control, byteOf sl.dest, byteOf sl.length] ++ payload →
      exec .leadStart s = .next { u with ts := { s.ts with
        slots := s.ts.slots.set n (some { sl with phase := .sending, sentSeq := seq })
        queues := s.ts.queues.set sl.cls ((s.ts.queues.get sl.cls).filter fun m => m ≠ n) } }) ∧
    (∀ notice nodes, offer = .notice → s.rq.notice = some notice → cls = .control →
      nodes = (match notice.contents with | .all => [] | .list l => l) → source = .notice →
      chars = [byteOf (64 + src), 0x50, 63, byteOf nodes.length] ++ nodes.map byteOf →
      exec .leadStart s = .next { u with
        rq := { s.rq with notice := some { notice with committed := true } } })

/-- A lost lead (R29, R70, R97, R131): LOST_CONTENTION counts, LAC enters RECEIVE, FR takes the lead bits read so
far, no attempt is counted. A slot is OFFERED again behind the slots that stood ahead of it and still stand in its
queue; the notice is pending again with its deferred part merged, and the offer. A recessive bit already read back
as sent cannot be lost any more (R28). A lead won (R30): LAC enters SEND and goes on with the frame. In LOOP no lead
is lost and no echo fault arises (R40). By inference the offer comes back in the step of the loss, without a new
presentation, so that the recency order of the peers stands, where R76 can be read otherwise (log 12). The model's
choices: LEAD_WON carries its fact, whatever the model's own count of bits (log 3), and a loss of a bit already read
back, or in LOOP, changes nothing (log 4). -/
def Obligations.ContentionIsLostOrWon : Prop :=
  (∀ (s u : State) (b : Burst) (k : Fin 8) (lead : Byte) (later : List Byte), s.resetLow = false →
     s.sc.station = .online → s.lac.mode = .contend → s.lac.burst = some b →
     b.chars = lead :: later → lead.getLsbD (7 - k.val) = true → s.fr.record = none →
     u = { s with
       lac := { s.lac with mode := .receive, burst := none, quiet := 0 }
       fr := { s.fr with
         mode := .header
         guard := false
         record := some { Rx.empty with
           leadBits := (dataBits lead).take k.val ++ [.dominant] } }
       ctr := { s.ctr with lostContention := bump s.ctr.lostContention } } →
     (∀ n ahead sl, b.bits ≤ k.val + 1 → b.source = .slot n ahead → slotAt s n = some sl →
       sl.phase = .sending →
       ∃ t, exec (.contentionLost k) s = .next t ∧
         Reevaluated { u with
           lac := { u.lac with offer := some (.slot n) }
           ts := { s.ts with
             slots := s.ts.slots.set n (some { sl with phase := .offered })
             queues := s.ts.queues.set sl.cls
               ((s.ts.queues.get sl.cls).takeWhile (fun m => ahead.contains m) ++ n ::
                 (s.ts.queues.get sl.cls).dropWhile (fun m => ahead.contains m)) } } t) ∧
     (∀ notice, b.bits ≤ k.val + 1 → b.source = .notice → s.rq.notice = some notice →
       ∃ t, exec (.contentionLost k) s = .next t ∧
         Reevaluated { u with
           lac := { u.lac with offer := some .notice }
           rq := { s.rq with notice := some {
             contents := match notice.deferred with
               | none => notice.contents
               | some d => notice.contents.merge d
             committed := false
             deferred := none } } } t) ∧
     (k.val + 1 < b.bits → exec (.contentionLost k) s = .next s)) ∧
  (∀ (s : State) (b : Burst) (lead : Byte) (later : List Byte), s.resetLow = false →
     s.lac.mode = .contend → s.lac.burst = some b → b.chars = lead :: later →
     exec .leadWon s = .next { s with lac := { s.lac with
       mode := .send
       quiet := quietAtStop lead .recessive
       burst := some { b with bits := max b.bits 10 } } }) ∧
  (∀ (s : State) (k : Fin 8) (bit : Nat), s.sc.station = .loop →
     exec (.contentionLost k) s = .next s ∧ exec (.echoFault bit) s = .next s)

/-- An echo fault in ONLINE (R28, R33, R34): in CONTEND at the lead's start or stop bit or where a dominant bit was
read recessive, in SEND and RESPOND at any bit. It is counted and the frame is cut. A slot's attempt is counted and
the slot is DONE FAILED or back at the front of its queue (R82); the notice is pending again with its deferred part
merged (R131); a response is given up. Below FAULTLIM the station stays ONLINE and TS re-evaluates; at FAULTLIM it
enters SILENT with the fault event set (R169), and what is still offered or awaited is stopped as `leftLine`
says. -/
def Obligations.EchoFaultCutsTheFrame : Prop :=
  ∀ (s u c : State) (b : Burst) (bit : Nat),
    s.resetLow = false → s.sc.station = .online → s.lac.burst = some b → b.bits ≤ bit →
    (s.lac.mode = .contend ∧ bit < 10 ∧
        (bit = 0 ∨ bit = 9 ∨ frameBit b.chars bit = .dominant)) ∨
      (s.lac.mode = .send ∧ 10 ≤ bit ∧ bit < 10 * b.chars.length) ∨
      (s.lac.mode = .respond ∧ bit < 10 * b.chars.length) →
    s.fr.record = none →
    u = { s with
      lac := { s.lac with
        mode := .quiet, burst := none, quiet := quietAtMismatch b s.lac.quiet bit,
        faults := min 15 (s.lac.faults + 1) }
      fr := { s.fr with mode := .recover, guard := false }
      ctr := { s.ctr with echoFault := bump s.ctr.echoFault } } →
    (b.source = .response ∧ c = u) ∨
      (b.source = .notice ∧ ∃ notice, s.rq.notice = some notice ∧
        c = { u with rq := { s.rq with notice := some {
          contents := match notice.deferred with
            | none => notice.contents
            | some d => notice.contents.merge d
          committed := false
          deferred := none } } }) ∨
      (∃ n ahead sl, b.source = .slot n ahead ∧ slotAt s n = some sl ∧ sl.phase = .sending ∧
        c = if s.cfg.retry < sl.attempts + 1 then
            completeSlot n .failed { sl with attempts := sl.attempts + 1 } u
          else requeueFront n { sl with attempts := sl.attempts + 1 } u) →
    (min 15 (s.lac.faults + 1) < s.cfg.faultlim →
      ∃ t, exec (.echoFault bit) s = .next t ∧ Reevaluated c t) ∧
    (s.cfg.faultlim ≤ min 15 (s.lac.faults + 1) → ∀ w, SlotStopped c w →
      exec (.echoFault bit) s = .next { leftLine .silent c w with
        sc := { s.sc with station := .silent, faultEvent := true } })

/-- A contended frame sent completely in ONLINE or LOOP (R32, R23, R78): SENT counts, the fault count is 0, the
class is demoted, and in ONLINE FR's guard is set below a count of 4; in LOOP FR has received the frame itself
(R113). A DATAGRAM slot is DONE SENT with its attempt counted; a DATA slot is AWAITING with its window open; the
notice leaves what R131 keeps of it. That the row is taken as the frame's end whatever the model's own count of bits
is the model's choice (log 3). -/
def Obligations.FrameSentByItsKind : Prop :=
  ∀ (s : State) (b : Burst) (q : Nat) (guard : Bool), s.resetLow = false →
    (s.sc.station = .online ∧ guard = decide (q < 4)) ∨
      (s.sc.station = .loop ∧ guard = s.fr.guard) →
    s.lac.mode = .send → s.lac.burst = some b → q = quietAtEnd b →
    (∀ n ahead sl, b.source = .slot n ahead → slotAt s n = some sl → sl.phase = .sending →
      sl.kind = .datagram →
      ∃ t, exec .frameSent s = .next t ∧
        Reevaluated (completeSlot n .sent { sl with attempts := sl.attempts + 1 } { s with
          lac := { s.lac with
            mode := .quiet, burst := none, quiet := q, faults := 0,
            demoted := s.lac.demoted.set sl.cls true }
          fr := { s.fr with guard := guard }
          ctr := { s.ctr with sent := bump s.ctr.sent } }) t) ∧
    (∀ n ahead sl, b.source = .slot n ahead → slotAt s n = some sl → sl.phase = .sending →
      sl.kind = .data →
      exec .frameSent s = .next { s with
        lac := { s.lac with
          mode := .quiet, burst := none, quiet := q, faults := 0,
          demoted := s.lac.demoted.set sl.cls true, window := some n }
        fr := { s.fr with guard := guard }
        ctr := { s.ctr with sent := bump s.ctr.sent }
        ts := { s.ts with slots := s.ts.slots.set n (some { sl with phase := .awaiting }) } }) ∧
    (∀ notice, b.source = .notice → s.rq.notice = some notice →
      ∃ t, exec .frameSent s = .next t ∧
        Reevaluated { s with
          lac := { s.lac with
            mode := .quiet, burst := none, quiet := q, faults := 0,
            demoted := s.lac.demoted.set .control true }
          fr := { s.fr with guard := guard }
          ctr := { s.ctr with sent := bump s.ctr.sent }
          rq := { s.rq with notice :=
            match notice.contents, notice.deferred with
            | .all, _ => none
            | .list _, none => none
            | .list _, some .all => some { contents := .all, committed := false, deferred := none }
            | .list sent, some (.list d) =>
              if d.filter (fun x => decide (x ∉ sent)) = [] then none
              else some { contents := .list (d.filter fun x => decide (x ∉ sent)),
                          committed := false, deferred := none } } } t)

/-- A response in ONLINE or LOOP (R37, R38), where no mark of the quiet count is left to take: six characters with
class 0, the ordered kind and SEQ, the destination and the reason, driven from RESPOND; sent completely, it counts in
SENT, sets the fault count to 0, sets no demotion flag, and LAC is in QUIET. In LOOP it goes on the internal path,
where FR takes its start bit: the frame is the candidate of an open window (R39, R113, R174). The count that
RESPONSE_START brings, and that RESPONSE_SENT is taken as the end whatever the model's own count of bits, are the
model's choices (log 3). -/
def Obligations.ResponseIsSent : Prop :=
  ∀ s : State, s.resetLow = false → s.sc.station = .online ∨ s.sc.station = .loop →
    (∀ o a chars, s.lac.order = some o → s.sc.address = some a → s.lac.mode = .quiet →
      s.fr.mode = .hunt → MarksTaken s →
      chars = withCheck
        [byteOf a,
         byteOf ((match o.kind with | .ack => 0x30 | .busy => 0x40) + if o.seq then 1 else 0),
         byteOf o.dest, o.reason] →
      exec .responseStart s = .next { s with
        lac := { s.lac with
          mode := .respond
          quiet := max s.lac.quiet 4
          order := none
          window := if s.sc.station = .loop then none else s.lac.window
          burst := some { source := .response, chars := chars, bits := 0 }
          path := if s.sc.station = .loop then chars else [] }
        fr := if s.sc.station = .loop then
            { s.fr with
              mode := .header, guard := false
              record := some { Rx.empty with candidate := s.lac.window.isSome } }
          else { s.fr with guard := false } }) ∧
    (∀ b, s.lac.mode = .respond → s.lac.burst = some b →
      ∃ t, exec .responseSent s = .next t ∧
        Reevaluated { s with
          lac := { s.lac with mode := .quiet, burst := none, quiet := quietAtEnd b, faults := 0 }
          fr := { s.fr with
            guard := if s.sc.station = .loop then s.fr.guard else decide (quietAtEnd b < 4) }
          ctr := { s.ctr with sent := bump s.ctr.sent } } t)

/-- The window's ends without a candidate that is received: the response deadline (R39, R80), and a stray below a
quiet count of 4, which is the failed candidate (R95, R150). The window closes, the attempt is counted and uncertain
set, and the slot is DONE ABORTED, DONE FAILED or back at the front of its queue. The count that the deadline brings
is the model's choice (log 3). -/
def Obligations.WindowEndsUnanswered : Prop :=
  (∀ (s : State) (n : SlotId) (sl : Slot), s.resetLow = false → s.lac.mode = .quiet →
     s.lac.window = some n → slotAt s n = some sl → sl.phase = .awaiting → s.fr.mode = .hunt →
     ∃ t, exec .noResponse s = .next t ∧
       Reevaluated (afterNoAnswer n sl { s with
         lac := { s.lac with quiet := max s.lac.quiet 10, window := none }
         fr := { s.fr with guard := false } }) t) ∧
  (∀ (s : State) (n : SlotId) (sl : Slot), s.resetLow = false → s.sc.station.readsLine →
     s.lac.mode.drives = false → s.fr.mode = .hunt → s.fr.guard = true → s.lac.quiet < 4 →
     s.fr.record = none → s.lac.window = some n → slotAt s n = some sl → sl.phase = .awaiting →
     (∀ m, m ≠ n → slotIn s .awaiting m = false) →
     ∃ t, exec .startBit s = .next t ∧
       Reevaluated (afterNoAnswer n sl { s with
         lac := { s.lac with quiet := 0, order := none, window := none }
         fr := { s.fr with mode := .recover, guard := false }
         ctr := { s.ctr with stray := bump s.ctr.stray } }) t)

/-- A valid ACK (R151, R79) and a valid BUSY (R152, R81) for the AWAITING slot: what they do to the slot and to its
peer entry, which moves to the front. That an ACK toggles tx next seq between two attempts of another slot to the
same node is the model's reading (log 30). A good ACK or BUSY with the candidate mark, at its frame end, is valid when
its source is the slot's destination, its DEST this station and, for an ACK, its SEQ the one sent (R150); else it
fails. A failed candidate ends the attempt unanswered (R109, R80, R88). -/
def Obligations.ValidResponses : Prop :=
  (∀ (s : State) (n : SlotId) (sl : Slot) (p : Peer) (reason : Byte),
     slotAt s n = some sl → sl.phase = .awaiting → findPeer s.pt sl.dest = some p →
     Reevaluated
       (completeSlot n .delivered { sl with attempts := sl.attempts + 1, uncertain := false }
         { s with pt := { p with synced := true, txSeq := !p.txSeq } ::
             s.pt.filter fun q => q.node ≠ sl.dest }) (takeAck n s) ∧
     ∀ u counted,
       u = { s with
         pt := { p with holdoff := some (s.cfg.holdoff * 256) } ::
           s.pt.filter fun q => q.node ≠ sl.dest
         iu := { s.iu with flowBusy := true } } →
       counted = { sl with
         busyCount := sl.busyCount + 1, reason := some reason, uncertain := false } →
       Reevaluated
         (if sl.abortPending then completeSlot n .aborted counted u
         else if 16 ≤ sl.busyCount + 1 then completeSlot n .refused counted u
         else requeueFront n counted u) (takeBusy n reason s)) ∧
  (∀ (v : Byte) (stop : LineBit) (s u h : State) (r : Rx) (b : Byte) (n : SlotId) (sl : Slot),
     FrameEnds v stop s r b u → checkChars r.crc = [r.checkHigh, b] → r.candidate = true →
     r.kind = .ack ∨ r.kind = .busy → slotAt s n = some sl → sl.phase = .awaiting →
     (∀ m, m ≠ n → slotIn s .awaiting m = false) →
     h = receptionOver .hunt (decide (quietAtStop b .recessive < 4))
       (quietAtStop b .recessive) u →
     (r.src = sl.dest ∧ s.sc.address = some r.dest ∧ (r.kind = .ack → r.seq = sl.sentSeq) →
       ∃ t, exec (.characterReceived v stop) s = .next t ∧
         ReturnsToQuiet s (if r.kind = .ack then takeAck n h else takeBusy n r.reason h) t) ∧
     (¬ (r.src = sl.dest ∧ s.sc.address = some r.dest ∧ (r.kind = .ack → r.seq = sl.sentSeq)) →
       ∃ t, exec (.characterReceived v stop) s = .next t ∧
         ReturnsToQuiet s (candidateFailed r h) t)) ∧
  (∀ (s : State) (r : Rx) (n : SlotId) (sl : Slot), r.candidate = true → slotAt s n = some sl →
     sl.phase = .awaiting → (∀ m, m ≠ n → slotIn s .awaiting m = false) →
     Reevaluated (afterNoAnswer n sl s) (candidateFailed r s))

/-- The timers that count spans (R153, R122): a holdoff that expires clears remote busy of its entry, raises
the peer-released event and TS re-evaluates; the stale timer that expires makes RXSTALE pending and stops. That
the row is taken as the expiry whatever the model's own count is the model's choice (log 3). -/
def Obligations.TimersExpire : Prop :=
  ∀ s : State, s.resetLow = false →
    (∀ p ∈ s.pt, p.holdoff ≠ none → (s.pt.map Peer.node).Nodup →
      ∃ t, exec (.holdoffExpiry p.node) s = .next t ∧
        Reevaluated { s with
          pt := s.pt.map fun q => if q.node = p.node then { q with holdoff := none } else q
          iu := { s.iu with flowReleased := true } } t) ∧
    (s.rq.stale ≠ none →
      exec .staleTimerExpiry s = .next
        { s with rq := { s.rq with rxStale := true, stale := none } })

/-- The check (R17): the register run on through the two CHECK characters is 0000h, and the two values that
the manual gives. -/
def Obligations.CheckRunsOnToZero : Prop :=
  (∀ covered : List Byte, crcOf (withCheck covered) = 0) ∧
  crcOf [0x00] = 0xE1F0 ∧
  crcOf [0x31, 0x32, 0x33, 0x34, 0x35, 0x36, 0x37, 0x38, 0x39] = 0x29B1
end

