-- ==== Sys2Proof/Laws/State.lean ====
section
/-! SUPPORT. What each simple update of the state leaves alone: one lemma for each block, and for each field of a
block that it changes in part; and what the updates store. -/

namespace Sys2Proof.Machine

open Sys2Proof

/-! ### `countEvent` -/

@[simp] theorem countEvent_lac (k : Counter) (s : State) : (countEvent k s).lac = s.lac := rfl
@[simp] theorem countEvent_ts (k : Counter) (s : State) : (countEvent k s).ts = s.ts := rfl
@[simp] theorem countEvent_bp (k : Counter) (s : State) : (countEvent k s).bp = s.bp := rfl
@[simp] theorem countEvent_fr (k : Counter) (s : State) : (countEvent k s).fr = s.fr := rfl
@[simp] theorem countEvent_rq (k : Counter) (s : State) : (countEvent k s).rq = s.rq := rfl
@[simp] theorem countEvent_pt (k : Counter) (s : State) : (countEvent k s).pt = s.pt := rfl
@[simp] theorem countEvent_sc (k : Counter) (s : State) : (countEvent k s).sc = s.sc := rfl
@[simp] theorem countEvent_iu (k : Counter) (s : State) : (countEvent k s).iu = s.iu := rfl
@[simp] theorem countEvent_hp (k : Counter) (s : State) : (countEvent k s).hp = s.hp := rfl
@[simp] theorem countEvent_cfg (k : Counter) (s : State) : (countEvent k s).cfg = s.cfg := rfl
@[simp] theorem countEvent_resetLow (k : Counter) (s : State) :
    (countEvent k s).resetLow = s.resetLow := rfl
@[simp] theorem countEvent_pending (k : Counter) (s : State) :
    (countEvent k s).pending = s.pending := rfl

/-! ### `claimBlocks` -/

@[simp] theorem claimBlocks_lac (k : Nat) (s : State) : (claimBlocks k s).lac = s.lac := rfl
@[simp] theorem claimBlocks_ts (k : Nat) (s : State) : (claimBlocks k s).ts = s.ts := rfl
@[simp] theorem claimBlocks_fr (k : Nat) (s : State) : (claimBlocks k s).fr = s.fr := rfl
@[simp] theorem claimBlocks_rq (k : Nat) (s : State) : (claimBlocks k s).rq = s.rq := rfl
@[simp] theorem claimBlocks_pt (k : Nat) (s : State) : (claimBlocks k s).pt = s.pt := rfl
@[simp] theorem claimBlocks_sc (k : Nat) (s : State) : (claimBlocks k s).sc = s.sc := rfl
@[simp] theorem claimBlocks_iu (k : Nat) (s : State) : (claimBlocks k s).iu = s.iu := rfl
@[simp] theorem claimBlocks_hp (k : Nat) (s : State) : (claimBlocks k s).hp = s.hp := rfl
@[simp] theorem claimBlocks_cfg (k : Nat) (s : State) : (claimBlocks k s).cfg = s.cfg := rfl
@[simp] theorem claimBlocks_ctr (k : Nat) (s : State) : (claimBlocks k s).ctr = s.ctr := rfl
@[simp] theorem claimBlocks_resetLow (k : Nat) (s : State) :
    (claimBlocks k s).resetLow = s.resetLow := rfl
@[simp] theorem claimBlocks_pending (k : Nat) (s : State) :
    (claimBlocks k s).pending = s.pending := rfl
@[simp] theorem claimBlocks_bp_mem (k : Nat) (s : State) :
    (claimBlocks k s).bp.mem = s.bp.mem := rfl

/-! ### `releaseChain` -/

@[simp] theorem releaseChain_lac (c : List Block) (s : State) :
    (releaseChain c s).lac = s.lac := rfl
@[simp] theorem releaseChain_ts (c : List Block) (s : State) : (releaseChain c s).ts = s.ts := rfl
@[simp] theorem releaseChain_fr (c : List Block) (s : State) : (releaseChain c s).fr = s.fr := rfl
@[simp] theorem releaseChain_rq (c : List Block) (s : State) : (releaseChain c s).rq = s.rq := rfl
@[simp] theorem releaseChain_pt (c : List Block) (s : State) : (releaseChain c s).pt = s.pt := rfl
@[simp] theorem releaseChain_sc (c : List Block) (s : State) : (releaseChain c s).sc = s.sc := rfl
@[simp] theorem releaseChain_iu (c : List Block) (s : State) : (releaseChain c s).iu = s.iu := rfl
@[simp] theorem releaseChain_hp (c : List Block) (s : State) : (releaseChain c s).hp = s.hp := rfl
@[simp] theorem releaseChain_cfg (c : List Block) (s : State) :
    (releaseChain c s).cfg = s.cfg := rfl
@[simp] theorem releaseChain_ctr (c : List Block) (s : State) :
    (releaseChain c s).ctr = s.ctr := rfl
@[simp] theorem releaseChain_resetLow (c : List Block) (s : State) :
    (releaseChain c s).resetLow = s.resetLow := rfl
@[simp] theorem releaseChain_pending (c : List Block) (s : State) :
    (releaseChain c s).pending = s.pending := rfl
@[simp] theorem releaseChain_bp_mem (c : List Block) (s : State) :
    (releaseChain c s).bp.mem = s.bp.mem := rfl

/-! ### `setSlot` -/

@[simp] theorem setSlot_lac (n : SlotId) (r : Option Slot) (s : State) :
    (setSlot n r s).lac = s.lac := rfl
@[simp] theorem setSlot_bp (n : SlotId) (r : Option Slot) (s : State) :
    (setSlot n r s).bp = s.bp := rfl
@[simp] theorem setSlot_fr (n : SlotId) (r : Option Slot) (s : State) :
    (setSlot n r s).fr = s.fr := rfl
@[simp] theorem setSlot_rq (n : SlotId) (r : Option Slot) (s : State) :
    (setSlot n r s).rq = s.rq := rfl
@[simp] theorem setSlot_pt (n : SlotId) (r : Option Slot) (s : State) :
    (setSlot n r s).pt = s.pt := rfl
@[simp] theorem setSlot_sc (n : SlotId) (r : Option Slot) (s : State) :
    (setSlot n r s).sc = s.sc := rfl
@[simp] theorem setSlot_iu (n : SlotId) (r : Option Slot) (s : State) :
    (setSlot n r s).iu = s.iu := rfl
@[simp] theorem setSlot_hp (n : SlotId) (r : Option Slot) (s : State) :
    (setSlot n r s).hp = s.hp := rfl
@[simp] theorem setSlot_cfg (n : SlotId) (r : Option Slot) (s : State) :
    (setSlot n r s).cfg = s.cfg := rfl
@[simp] theorem setSlot_ctr (n : SlotId) (r : Option Slot) (s : State) :
    (setSlot n r s).ctr = s.ctr := rfl
@[simp] theorem setSlot_resetLow (n : SlotId) (r : Option Slot) (s : State) :
    (setSlot n r s).resetLow = s.resetLow := rfl
@[simp] theorem setSlot_pending (n : SlotId) (r : Option Slot) (s : State) :
    (setSlot n r s).pending = s.pending := rfl
@[simp] theorem setSlot_ts_queues (n : SlotId) (r : Option Slot) (s : State) :
    (setSlot n r s).ts.queues = s.ts.queues := rfl
@[simp] theorem setSlot_ts_completion (n : SlotId) (r : Option Slot) (s : State) :
    (setSlot n r s).ts.completion = s.ts.completion := rfl

/-! ### `modifySlot` -/

@[simp] theorem modifySlot_lac (n : SlotId) (f : Slot → Slot) (s : State) :
    (modifySlot n f s).lac = s.lac := rfl
@[simp] theorem modifySlot_bp (n : SlotId) (f : Slot → Slot) (s : State) :
    (modifySlot n f s).bp = s.bp := rfl
@[simp] theorem modifySlot_fr (n : SlotId) (f : Slot → Slot) (s : State) :
    (modifySlot n f s).fr = s.fr := rfl
@[simp] theorem modifySlot_rq (n : SlotId) (f : Slot → Slot) (s : State) :
    (modifySlot n f s).rq = s.rq := rfl
@[simp] theorem modifySlot_pt (n : SlotId) (f : Slot → Slot) (s : State) :
    (modifySlot n f s).pt = s.pt := rfl
@[simp] theorem modifySlot_sc (n : SlotId) (f : Slot → Slot) (s : State) :
    (modifySlot n f s).sc = s.sc := rfl
@[simp] theorem modifySlot_iu (n : SlotId) (f : Slot → Slot) (s : State) :
    (modifySlot n f s).iu = s.iu := rfl
@[simp] theorem modifySlot_hp (n : SlotId) (f : Slot → Slot) (s : State) :
    (modifySlot n f s).hp = s.hp := rfl
@[simp] theorem modifySlot_cfg (n : SlotId) (f : Slot → Slot) (s : State) :
    (modifySlot n f s).cfg = s.cfg := rfl
@[simp] theorem modifySlot_ctr (n : SlotId) (f : Slot → Slot) (s : State) :
    (modifySlot n f s).ctr = s.ctr := rfl
@[simp] theorem modifySlot_resetLow (n : SlotId) (f : Slot → Slot) (s : State) :
    (modifySlot n f s).resetLow = s.resetLow := rfl
@[simp] theorem modifySlot_pending (n : SlotId) (f : Slot → Slot) (s : State) :
    (modifySlot n f s).pending = s.pending := rfl
@[simp] theorem modifySlot_ts_queues (n : SlotId) (f : Slot → Slot) (s : State) :
    (modifySlot n f s).ts.queues = s.ts.queues := rfl
@[simp] theorem modifySlot_ts_completion (n : SlotId) (f : Slot → Slot) (s : State) :
    (modifySlot n f s).ts.completion = s.ts.completion := rfl

/-! ### `enqueueTail` -/

@[simp] theorem enqueueTail_lac (c : Sys2Proof.Class) (n : SlotId) (s : State) :
    (enqueueTail c n s).lac = s.lac := rfl
@[simp] theorem enqueueTail_bp (c : Sys2Proof.Class) (n : SlotId) (s : State) :
    (enqueueTail c n s).bp = s.bp := rfl
@[simp] theorem enqueueTail_fr (c : Sys2Proof.Class) (n : SlotId) (s : State) :
    (enqueueTail c n s).fr = s.fr := rfl
@[simp] theorem enqueueTail_rq (c : Sys2Proof.Class) (n : SlotId) (s : State) :
    (enqueueTail c n s).rq = s.rq := rfl
@[simp] theorem enqueueTail_pt (c : Sys2Proof.Class) (n : SlotId) (s : State) :
    (enqueueTail c n s).pt = s.pt := rfl
@[simp] theorem enqueueTail_sc (c : Sys2Proof.Class) (n : SlotId) (s : State) :
    (enqueueTail c n s).sc = s.sc := rfl
@[simp] theorem enqueueTail_iu (c : Sys2Proof.Class) (n : SlotId) (s : State) :
    (enqueueTail c n s).iu = s.iu := rfl
@[simp] theorem enqueueTail_hp (c : Sys2Proof.Class) (n : SlotId) (s : State) :
    (enqueueTail c n s).hp = s.hp := rfl
@[simp] theorem enqueueTail_cfg (c : Sys2Proof.Class) (n : SlotId) (s : State) :
    (enqueueTail c n s).cfg = s.cfg := rfl
@[simp] theorem enqueueTail_ctr (c : Sys2Proof.Class) (n : SlotId) (s : State) :
    (enqueueTail c n s).ctr = s.ctr := rfl
@[simp] theorem enqueueTail_resetLow (c : Sys2Proof.Class) (n : SlotId) (s : State) :
    (enqueueTail c n s).resetLow = s.resetLow := rfl
@[simp] theorem enqueueTail_pending (c : Sys2Proof.Class) (n : SlotId) (s : State) :
    (enqueueTail c n s).pending = s.pending := rfl
@[simp] theorem enqueueTail_ts_completion (c : Sys2Proof.Class) (n : SlotId) (s : State) :
    (enqueueTail c n s).ts.completion = s.ts.completion := rfl
@[simp] theorem enqueueTail_ts_slots (c : Sys2Proof.Class) (n : SlotId) (s : State) :
    (enqueueTail c n s).ts.slots = s.ts.slots := rfl

/-! ### `enqueueFront` -/

@[simp] theorem enqueueFront_lac (c : Sys2Proof.Class) (n : SlotId) (s : State) :
    (enqueueFront c n s).lac = s.lac := rfl
@[simp] theorem enqueueFront_bp (c : Sys2Proof.Class) (n : SlotId) (s : State) :
    (enqueueFront c n s).bp = s.bp := rfl
@[simp] theorem enqueueFront_fr (c : Sys2Proof.Class) (n : SlotId) (s : State) :
    (enqueueFront c n s).fr = s.fr := rfl
@[simp] theorem enqueueFront_rq (c : Sys2Proof.Class) (n : SlotId) (s : State) :
    (enqueueFront c n s).rq = s.rq := rfl
@[simp] theorem enqueueFront_pt (c : Sys2Proof.Class) (n : SlotId) (s : State) :
    (enqueueFront c n s).pt = s.pt := rfl
@[simp] theorem enqueueFront_sc (c : Sys2Proof.Class) (n : SlotId) (s : State) :
    (enqueueFront c n s).sc = s.sc := rfl
@[simp] theorem enqueueFront_iu (c : Sys2Proof.Class) (n : SlotId) (s : State) :
    (enqueueFront c n s).iu = s.iu := rfl
@[simp] theorem enqueueFront_hp (c : Sys2Proof.Class) (n : SlotId) (s : State) :
    (enqueueFront c n s).hp = s.hp := rfl
@[simp] theorem enqueueFront_cfg (c : Sys2Proof.Class) (n : SlotId) (s : State) :
    (enqueueFront c n s).cfg = s.cfg := rfl
@[simp] theorem enqueueFront_ctr (c : Sys2Proof.Class) (n : SlotId) (s : State) :
    (enqueueFront c n s).ctr = s.ctr := rfl
@[simp] theorem enqueueFront_resetLow (c : Sys2Proof.Class) (n : SlotId) (s : State) :
    (enqueueFront c n s).resetLow = s.resetLow := rfl
@[simp] theorem enqueueFront_pending (c : Sys2Proof.Class) (n : SlotId) (s : State) :
    (enqueueFront c n s).pending = s.pending := rfl
@[simp] theorem enqueueFront_ts_completion (c : Sys2Proof.Class) (n : SlotId) (s : State) :
    (enqueueFront c n s).ts.completion = s.ts.completion := rfl
@[simp] theorem enqueueFront_ts_slots (c : Sys2Proof.Class) (n : SlotId) (s : State) :
    (enqueueFront c n s).ts.slots = s.ts.slots := rfl

/-! ### `enqueueBehind` -/

@[simp] theorem enqueueBehind_lac (c : Sys2Proof.Class) (l : List SlotId) (n : SlotId) (s : State) :
    (enqueueBehind c l n s).lac = s.lac := rfl
@[simp] theorem enqueueBehind_bp (c : Sys2Proof.Class) (l : List SlotId) (n : SlotId) (s : State) :
    (enqueueBehind c l n s).bp = s.bp := rfl
@[simp] theorem enqueueBehind_fr (c : Sys2Proof.Class) (l : List SlotId) (n : SlotId) (s : State) :
    (enqueueBehind c l n s).fr = s.fr := rfl
@[simp] theorem enqueueBehind_rq (c : Sys2Proof.Class) (l : List SlotId) (n : SlotId) (s : State) :
    (enqueueBehind c l n s).rq = s.rq := rfl
@[simp] theorem enqueueBehind_pt (c : Sys2Proof.Class) (l : List SlotId) (n : SlotId) (s : State) :
    (enqueueBehind c l n s).pt = s.pt := rfl
@[simp] theorem enqueueBehind_sc (c : Sys2Proof.Class) (l : List SlotId) (n : SlotId) (s : State) :
    (enqueueBehind c l n s).sc = s.sc := rfl
@[simp] theorem enqueueBehind_iu (c : Sys2Proof.Class) (l : List SlotId) (n : SlotId) (s : State) :
    (enqueueBehind c l n s).iu = s.iu := rfl
@[simp] theorem enqueueBehind_hp (c : Sys2Proof.Class) (l : List SlotId) (n : SlotId) (s : State) :
    (enqueueBehind c l n s).hp = s.hp := rfl
@[simp] theorem enqueueBehind_cfg (c : Sys2Proof.Class) (l : List SlotId) (n : SlotId) (s : State) :
    (enqueueBehind c l n s).cfg = s.cfg := rfl
@[simp] theorem enqueueBehind_ctr (c : Sys2Proof.Class) (l : List SlotId) (n : SlotId) (s : State) :
    (enqueueBehind c l n s).ctr = s.ctr := rfl
@[simp] theorem enqueueBehind_resetLow (c : Sys2Proof.Class) (l : List SlotId) (n : SlotId) (s : State) :
    (enqueueBehind c l n s).resetLow = s.resetLow := rfl
@[simp] theorem enqueueBehind_pending (c : Sys2Proof.Class) (l : List SlotId) (n : SlotId) (s : State) :
    (enqueueBehind c l n s).pending = s.pending := rfl
@[simp] theorem enqueueBehind_ts_completion (c : Sys2Proof.Class) (l : List SlotId) (n : SlotId) (s : State) :
    (enqueueBehind c l n s).ts.completion = s.ts.completion := rfl
@[simp] theorem enqueueBehind_ts_slots (c : Sys2Proof.Class) (l : List SlotId) (n : SlotId) (s : State) :
    (enqueueBehind c l n s).ts.slots = s.ts.slots := rfl

/-! ### `dequeue` -/

@[simp] theorem dequeue_bp (c : Sys2Proof.Class) (n : SlotId) (s : State) : (dequeue c n s).bp = s.bp := rfl
@[simp] theorem dequeue_fr (c : Sys2Proof.Class) (n : SlotId) (s : State) : (dequeue c n s).fr = s.fr := rfl
@[simp] theorem dequeue_rq (c : Sys2Proof.Class) (n : SlotId) (s : State) : (dequeue c n s).rq = s.rq := rfl
@[simp] theorem dequeue_pt (c : Sys2Proof.Class) (n : SlotId) (s : State) : (dequeue c n s).pt = s.pt := rfl
@[simp] theorem dequeue_sc (c : Sys2Proof.Class) (n : SlotId) (s : State) : (dequeue c n s).sc = s.sc := rfl
@[simp] theorem dequeue_iu (c : Sys2Proof.Class) (n : SlotId) (s : State) : (dequeue c n s).iu = s.iu := rfl
@[simp] theorem dequeue_hp (c : Sys2Proof.Class) (n : SlotId) (s : State) : (dequeue c n s).hp = s.hp := rfl
@[simp] theorem dequeue_cfg (c : Sys2Proof.Class) (n : SlotId) (s : State) :
    (dequeue c n s).cfg = s.cfg := rfl
@[simp] theorem dequeue_ctr (c : Sys2Proof.Class) (n : SlotId) (s : State) :
    (dequeue c n s).ctr = s.ctr := rfl
@[simp] theorem dequeue_resetLow (c : Sys2Proof.Class) (n : SlotId) (s : State) :
    (dequeue c n s).resetLow = s.resetLow := rfl
@[simp] theorem dequeue_pending (c : Sys2Proof.Class) (n : SlotId) (s : State) :
    (dequeue c n s).pending = s.pending := rfl
@[simp] theorem dequeue_lac_mode (c : Sys2Proof.Class) (n : SlotId) (s : State) :
    (dequeue c n s).lac.mode = s.lac.mode := rfl
@[simp] theorem dequeue_lac_quiet (c : Sys2Proof.Class) (n : SlotId) (s : State) :
    (dequeue c n s).lac.quiet = s.lac.quiet := rfl
@[simp] theorem dequeue_lac_demoted (c : Sys2Proof.Class) (n : SlotId) (s : State) :
    (dequeue c n s).lac.demoted = s.lac.demoted := rfl
@[simp] theorem dequeue_lac_faults (c : Sys2Proof.Class) (n : SlotId) (s : State) :
    (dequeue c n s).lac.faults = s.lac.faults := rfl
@[simp] theorem dequeue_lac_offer (c : Sys2Proof.Class) (n : SlotId) (s : State) :
    (dequeue c n s).lac.offer = s.lac.offer := rfl
@[simp] theorem dequeue_lac_order (c : Sys2Proof.Class) (n : SlotId) (s : State) :
    (dequeue c n s).lac.order = s.lac.order := rfl
@[simp] theorem dequeue_lac_window (c : Sys2Proof.Class) (n : SlotId) (s : State) :
    (dequeue c n s).lac.window = s.lac.window := rfl
@[simp] theorem dequeue_lac_path (c : Sys2Proof.Class) (n : SlotId) (s : State) :
    (dequeue c n s).lac.path = s.lac.path := rfl
@[simp] theorem dequeue_ts_completion (c : Sys2Proof.Class) (n : SlotId) (s : State) :
    (dequeue c n s).ts.completion = s.ts.completion := rfl
@[simp] theorem dequeue_ts_slots (c : Sys2Proof.Class) (n : SlotId) (s : State) :
    (dequeue c n s).ts.slots = s.ts.slots := rfl

/-! ### `withPeer` -/

@[simp] theorem withPeer_lac (a : Nat) (f : Peer → Peer) (s : State) :
    (withPeer a f s).lac = s.lac := rfl
@[simp] theorem withPeer_ts (a : Nat) (f : Peer → Peer) (s : State) :
    (withPeer a f s).ts = s.ts := rfl
@[simp] theorem withPeer_bp (a : Nat) (f : Peer → Peer) (s : State) :
    (withPeer a f s).bp = s.bp := rfl
@[simp] theorem withPeer_fr (a : Nat) (f : Peer → Peer) (s : State) :
    (withPeer a f s).fr = s.fr := rfl
@[simp] theorem withPeer_rq (a : Nat) (f : Peer → Peer) (s : State) :
    (withPeer a f s).rq = s.rq := rfl
@[simp] theorem withPeer_sc (a : Nat) (f : Peer → Peer) (s : State) :
    (withPeer a f s).sc = s.sc := rfl
@[simp] theorem withPeer_iu (a : Nat) (f : Peer → Peer) (s : State) :
    (withPeer a f s).iu = s.iu := rfl
@[simp] theorem withPeer_hp (a : Nat) (f : Peer → Peer) (s : State) :
    (withPeer a f s).hp = s.hp := rfl
@[simp] theorem withPeer_cfg (a : Nat) (f : Peer → Peer) (s : State) :
    (withPeer a f s).cfg = s.cfg := rfl
@[simp] theorem withPeer_ctr (a : Nat) (f : Peer → Peer) (s : State) :
    (withPeer a f s).ctr = s.ctr := rfl
@[simp] theorem withPeer_resetLow (a : Nat) (f : Peer → Peer) (s : State) :
    (withPeer a f s).resetLow = s.resetLow := rfl
@[simp] theorem withPeer_pending (a : Nat) (f : Peer → Peer) (s : State) :
    (withPeer a f s).pending = s.pending := rfl

/-! ### `answer` -/

@[simp] theorem answer_lac (c : Cst) (r : Quad) (s : State) : (answer c r s).lac = s.lac := rfl
@[simp] theorem answer_ts (c : Cst) (r : Quad) (s : State) : (answer c r s).ts = s.ts := rfl
@[simp] theorem answer_bp (c : Cst) (r : Quad) (s : State) : (answer c r s).bp = s.bp := rfl
@[simp] theorem answer_fr (c : Cst) (r : Quad) (s : State) : (answer c r s).fr = s.fr := rfl
@[simp] theorem answer_rq (c : Cst) (r : Quad) (s : State) : (answer c r s).rq = s.rq := rfl
@[simp] theorem answer_pt (c : Cst) (r : Quad) (s : State) : (answer c r s).pt = s.pt := rfl
@[simp] theorem answer_sc (c : Cst) (r : Quad) (s : State) : (answer c r s).sc = s.sc := rfl
@[simp] theorem answer_iu (c : Cst) (r : Quad) (s : State) : (answer c r s).iu = s.iu := rfl
@[simp] theorem answer_cfg (c : Cst) (r : Quad) (s : State) : (answer c r s).cfg = s.cfg := rfl
@[simp] theorem answer_ctr (c : Cst) (r : Quad) (s : State) : (answer c r s).ctr = s.ctr := rfl
@[simp] theorem answer_resetLow (c : Cst) (r : Quad) (s : State) :
    (answer c r s).resetLow = s.resetLow := rfl
@[simp] theorem answer_pending (c : Cst) (r : Quad) (s : State) :
    (answer c r s).pending = s.pending := rfl
@[simp] theorem answer_hp_winSel (c : Cst) (r : Quad) (s : State) :
    (answer c r s).hp.winSel = s.hp.winSel := rfl
@[simp] theorem answer_hp_winOfs (c : Cst) (r : Quad) (s : State) :
    (answer c r s).hp.winOfs = s.hp.winOfs := rfl
@[simp] theorem answer_hp_args (c : Cst) (r : Quad) (s : State) :
    (answer c r s).hp.args = s.hp.args := rfl
@[simp] theorem answer_hp_cmd (c : Cst) (r : Quad) (s : State) :
    (answer c r s).hp.cmd = s.hp.cmd := rfl

/-! ### `answerBare` -/

@[simp] theorem answerBare_lac (c : Cst) (s : State) : (answerBare c s).lac = s.lac := rfl
@[simp] theorem answerBare_ts (c : Cst) (s : State) : (answerBare c s).ts = s.ts := rfl
@[simp] theorem answerBare_bp (c : Cst) (s : State) : (answerBare c s).bp = s.bp := rfl
@[simp] theorem answerBare_fr (c : Cst) (s : State) : (answerBare c s).fr = s.fr := rfl
@[simp] theorem answerBare_rq (c : Cst) (s : State) : (answerBare c s).rq = s.rq := rfl
@[simp] theorem answerBare_pt (c : Cst) (s : State) : (answerBare c s).pt = s.pt := rfl
@[simp] theorem answerBare_sc (c : Cst) (s : State) : (answerBare c s).sc = s.sc := rfl
@[simp] theorem answerBare_iu (c : Cst) (s : State) : (answerBare c s).iu = s.iu := rfl
@[simp] theorem answerBare_cfg (c : Cst) (s : State) : (answerBare c s).cfg = s.cfg := rfl
@[simp] theorem answerBare_ctr (c : Cst) (s : State) : (answerBare c s).ctr = s.ctr := rfl
@[simp] theorem answerBare_resetLow (c : Cst) (s : State) :
    (answerBare c s).resetLow = s.resetLow := rfl
@[simp] theorem answerBare_pending (c : Cst) (s : State) :
    (answerBare c s).pending = s.pending := rfl
@[simp] theorem answerBare_hp_winSel (c : Cst) (s : State) :
    (answerBare c s).hp.winSel = s.hp.winSel := rfl
@[simp] theorem answerBare_hp_winOfs (c : Cst) (s : State) :
    (answerBare c s).hp.winOfs = s.hp.winOfs := rfl
@[simp] theorem answerBare_hp_args (c : Cst) (s : State) :
    (answerBare c s).hp.args = s.hp.args := rfl
@[simp] theorem answerBare_hp_cmd (c : Cst) (s : State) : (answerBare c s).hp.cmd = s.hp.cmd := rfl

/-! ### `answerByte` -/

@[simp] theorem answerByte_lac (c : Cst) (v : Byte) (s : State) :
    (answerByte c v s).lac = s.lac := rfl
@[simp] theorem answerByte_ts (c : Cst) (v : Byte) (s : State) : (answerByte c v s).ts = s.ts := rfl
@[simp] theorem answerByte_bp (c : Cst) (v : Byte) (s : State) : (answerByte c v s).bp = s.bp := rfl
@[simp] theorem answerByte_fr (c : Cst) (v : Byte) (s : State) : (answerByte c v s).fr = s.fr := rfl
@[simp] theorem answerByte_rq (c : Cst) (v : Byte) (s : State) : (answerByte c v s).rq = s.rq := rfl
@[simp] theorem answerByte_pt (c : Cst) (v : Byte) (s : State) : (answerByte c v s).pt = s.pt := rfl
@[simp] theorem answerByte_sc (c : Cst) (v : Byte) (s : State) : (answerByte c v s).sc = s.sc := rfl
@[simp] theorem answerByte_iu (c : Cst) (v : Byte) (s : State) : (answerByte c v s).iu = s.iu := rfl
@[simp] theorem answerByte_cfg (c : Cst) (v : Byte) (s : State) :
    (answerByte c v s).cfg = s.cfg := rfl
@[simp] theorem answerByte_ctr (c : Cst) (v : Byte) (s : State) :
    (answerByte c v s).ctr = s.ctr := rfl
@[simp] theorem answerByte_resetLow (c : Cst) (v : Byte) (s : State) :
    (answerByte c v s).resetLow = s.resetLow := rfl
@[simp] theorem answerByte_pending (c : Cst) (v : Byte) (s : State) :
    (answerByte c v s).pending = s.pending := rfl
@[simp] theorem answerByte_hp_winSel (c : Cst) (v : Byte) (s : State) :
    (answerByte c v s).hp.winSel = s.hp.winSel := rfl
@[simp] theorem answerByte_hp_winOfs (c : Cst) (v : Byte) (s : State) :
    (answerByte c v s).hp.winOfs = s.hp.winOfs := rfl
@[simp] theorem answerByte_hp_args (c : Cst) (v : Byte) (s : State) :
    (answerByte c v s).hp.args = s.hp.args := rfl
@[simp] theorem answerByte_hp_cmd (c : Cst) (v : Byte) (s : State) :
    (answerByte c v s).hp.cmd = s.hp.cmd := rfl

/-! ### `answerGroups` -/

@[simp] theorem answerGroups_lac (c : Cst) (s : State) : (answerGroups c s).lac = s.lac := rfl
@[simp] theorem answerGroups_ts (c : Cst) (s : State) : (answerGroups c s).ts = s.ts := rfl
@[simp] theorem answerGroups_bp (c : Cst) (s : State) : (answerGroups c s).bp = s.bp := rfl
@[simp] theorem answerGroups_fr (c : Cst) (s : State) : (answerGroups c s).fr = s.fr := rfl
@[simp] theorem answerGroups_rq (c : Cst) (s : State) : (answerGroups c s).rq = s.rq := rfl
@[simp] theorem answerGroups_pt (c : Cst) (s : State) : (answerGroups c s).pt = s.pt := rfl
@[simp] theorem answerGroups_sc (c : Cst) (s : State) : (answerGroups c s).sc = s.sc := rfl
@[simp] theorem answerGroups_iu (c : Cst) (s : State) : (answerGroups c s).iu = s.iu := rfl
@[simp] theorem answerGroups_cfg (c : Cst) (s : State) : (answerGroups c s).cfg = s.cfg := rfl
@[simp] theorem answerGroups_ctr (c : Cst) (s : State) : (answerGroups c s).ctr = s.ctr := rfl
@[simp] theorem answerGroups_resetLow (c : Cst) (s : State) :
    (answerGroups c s).resetLow = s.resetLow := rfl
@[simp] theorem answerGroups_pending (c : Cst) (s : State) :
    (answerGroups c s).pending = s.pending := rfl
@[simp] theorem answerGroups_hp_winSel (c : Cst) (s : State) :
    (answerGroups c s).hp.winSel = s.hp.winSel := rfl
@[simp] theorem answerGroups_hp_winOfs (c : Cst) (s : State) :
    (answerGroups c s).hp.winOfs = s.hp.winOfs := rfl
@[simp] theorem answerGroups_hp_args (c : Cst) (s : State) :
    (answerGroups c s).hp.args = s.hp.args := rfl
@[simp] theorem answerGroups_hp_cmd (c : Cst) (s : State) :
    (answerGroups c s).hp.cmd = s.hp.cmd := rfl

/-! ### `raiseWindowError` -/

@[simp] theorem raiseWindowError_lac (s : State) : (raiseWindowError s).lac = s.lac := rfl
@[simp] theorem raiseWindowError_ts (s : State) : (raiseWindowError s).ts = s.ts := rfl
@[simp] theorem raiseWindowError_bp (s : State) : (raiseWindowError s).bp = s.bp := rfl
@[simp] theorem raiseWindowError_fr (s : State) : (raiseWindowError s).fr = s.fr := rfl
@[simp] theorem raiseWindowError_rq (s : State) : (raiseWindowError s).rq = s.rq := rfl
@[simp] theorem raiseWindowError_pt (s : State) : (raiseWindowError s).pt = s.pt := rfl
@[simp] theorem raiseWindowError_sc (s : State) : (raiseWindowError s).sc = s.sc := rfl
@[simp] theorem raiseWindowError_iu (s : State) : (raiseWindowError s).iu = s.iu := rfl
@[simp] theorem raiseWindowError_cfg (s : State) : (raiseWindowError s).cfg = s.cfg := rfl
@[simp] theorem raiseWindowError_ctr (s : State) : (raiseWindowError s).ctr = s.ctr := rfl
@[simp] theorem raiseWindowError_resetLow (s : State) :
    (raiseWindowError s).resetLow = s.resetLow := rfl
@[simp] theorem raiseWindowError_pending (s : State) :
    (raiseWindowError s).pending = s.pending := rfl
@[simp] theorem raiseWindowError_hp_winSel (s : State) :
    (raiseWindowError s).hp.winSel = s.hp.winSel := rfl
@[simp] theorem raiseWindowError_hp_winOfs (s : State) :
    (raiseWindowError s).hp.winOfs = s.hp.winOfs := rfl
@[simp] theorem raiseWindowError_hp_args (s : State) :
    (raiseWindowError s).hp.args = s.hp.args := rfl
@[simp] theorem raiseWindowError_hp_res (s : State) : (raiseWindowError s).hp.res = s.hp.res := rfl
@[simp] theorem raiseWindowError_hp_cst (s : State) : (raiseWindowError s).hp.cst = s.hp.cst := rfl
@[simp] theorem raiseWindowError_hp_cmd (s : State) : (raiseWindowError s).hp.cmd = s.hp.cmd := rfl

/-! ### `raiseConfigError` -/

@[simp] theorem raiseConfigError_lac (s : State) : (raiseConfigError s).lac = s.lac := rfl
@[simp] theorem raiseConfigError_ts (s : State) : (raiseConfigError s).ts = s.ts := rfl
@[simp] theorem raiseConfigError_bp (s : State) : (raiseConfigError s).bp = s.bp := rfl
@[simp] theorem raiseConfigError_fr (s : State) : (raiseConfigError s).fr = s.fr := rfl
@[simp] theorem raiseConfigError_rq (s : State) : (raiseConfigError s).rq = s.rq := rfl
@[simp] theorem raiseConfigError_pt (s : State) : (raiseConfigError s).pt = s.pt := rfl
@[simp] theorem raiseConfigError_sc (s : State) : (raiseConfigError s).sc = s.sc := rfl
@[simp] theorem raiseConfigError_iu (s : State) : (raiseConfigError s).iu = s.iu := rfl
@[simp] theorem raiseConfigError_cfg (s : State) : (raiseConfigError s).cfg = s.cfg := rfl
@[simp] theorem raiseConfigError_ctr (s : State) : (raiseConfigError s).ctr = s.ctr := rfl
@[simp] theorem raiseConfigError_resetLow (s : State) :
    (raiseConfigError s).resetLow = s.resetLow := rfl
@[simp] theorem raiseConfigError_pending (s : State) :
    (raiseConfigError s).pending = s.pending := rfl
@[simp] theorem raiseConfigError_hp_winSel (s : State) :
    (raiseConfigError s).hp.winSel = s.hp.winSel := rfl
@[simp] theorem raiseConfigError_hp_winOfs (s : State) :
    (raiseConfigError s).hp.winOfs = s.hp.winOfs := rfl
@[simp] theorem raiseConfigError_hp_args (s : State) :
    (raiseConfigError s).hp.args = s.hp.args := rfl
@[simp] theorem raiseConfigError_hp_res (s : State) : (raiseConfigError s).hp.res = s.hp.res := rfl
@[simp] theorem raiseConfigError_hp_cst (s : State) : (raiseConfigError s).hp.cst = s.hp.cst := rfl
@[simp] theorem raiseConfigError_hp_cmd (s : State) : (raiseConfigError s).hp.cmd = s.hp.cmd := rfl

/-! ### `setRecord` -/

@[simp] theorem setRecord_lac (r : Rx) (s : State) : (setRecord r s).lac = s.lac := rfl
@[simp] theorem setRecord_ts (r : Rx) (s : State) : (setRecord r s).ts = s.ts := rfl
@[simp] theorem setRecord_bp (r : Rx) (s : State) : (setRecord r s).bp = s.bp := rfl
@[simp] theorem setRecord_rq (r : Rx) (s : State) : (setRecord r s).rq = s.rq := rfl
@[simp] theorem setRecord_pt (r : Rx) (s : State) : (setRecord r s).pt = s.pt := rfl
@[simp] theorem setRecord_sc (r : Rx) (s : State) : (setRecord r s).sc = s.sc := rfl
@[simp] theorem setRecord_iu (r : Rx) (s : State) : (setRecord r s).iu = s.iu := rfl
@[simp] theorem setRecord_hp (r : Rx) (s : State) : (setRecord r s).hp = s.hp := rfl
@[simp] theorem setRecord_cfg (r : Rx) (s : State) : (setRecord r s).cfg = s.cfg := rfl
@[simp] theorem setRecord_ctr (r : Rx) (s : State) : (setRecord r s).ctr = s.ctr := rfl
@[simp] theorem setRecord_resetLow (r : Rx) (s : State) :
    (setRecord r s).resetLow = s.resetLow := rfl
@[simp] theorem setRecord_pending (r : Rx) (s : State) : (setRecord r s).pending = s.pending := rfl
@[simp] theorem setRecord_fr_groups (r : Rx) (s : State) :
    (setRecord r s).fr.groups = s.fr.groups := rfl
@[simp] theorem setRecord_fr_mode (r : Rx) (s : State) : (setRecord r s).fr.mode = s.fr.mode := rfl
@[simp] theorem setRecord_fr_guard (r : Rx) (s : State) :
    (setRecord r s).fr.guard = s.fr.guard := rfl

/-! ### `openRecord` -/

@[simp] theorem openRecord_lac (b : Bool) (s : State) : (openRecord b s).lac = s.lac := rfl
@[simp] theorem openRecord_ts (b : Bool) (s : State) : (openRecord b s).ts = s.ts := rfl
@[simp] theorem openRecord_bp (b : Bool) (s : State) : (openRecord b s).bp = s.bp := rfl
@[simp] theorem openRecord_rq (b : Bool) (s : State) : (openRecord b s).rq = s.rq := rfl
@[simp] theorem openRecord_pt (b : Bool) (s : State) : (openRecord b s).pt = s.pt := rfl
@[simp] theorem openRecord_sc (b : Bool) (s : State) : (openRecord b s).sc = s.sc := rfl
@[simp] theorem openRecord_iu (b : Bool) (s : State) : (openRecord b s).iu = s.iu := rfl
@[simp] theorem openRecord_hp (b : Bool) (s : State) : (openRecord b s).hp = s.hp := rfl
@[simp] theorem openRecord_cfg (b : Bool) (s : State) : (openRecord b s).cfg = s.cfg := rfl
@[simp] theorem openRecord_ctr (b : Bool) (s : State) : (openRecord b s).ctr = s.ctr := rfl
@[simp] theorem openRecord_resetLow (b : Bool) (s : State) :
    (openRecord b s).resetLow = s.resetLow := rfl
@[simp] theorem openRecord_pending (b : Bool) (s : State) :
    (openRecord b s).pending = s.pending := rfl
@[simp] theorem openRecord_fr_groups (b : Bool) (s : State) :
    (openRecord b s).fr.groups = s.fr.groups := rfl

/-! ### `setStation` -/

@[simp] theorem setStation_lac (t : Station) (s : State) : (setStation t s).lac = s.lac := rfl
@[simp] theorem setStation_ts (t : Station) (s : State) : (setStation t s).ts = s.ts := rfl
@[simp] theorem setStation_bp (t : Station) (s : State) : (setStation t s).bp = s.bp := rfl
@[simp] theorem setStation_fr (t : Station) (s : State) : (setStation t s).fr = s.fr := rfl
@[simp] theorem setStation_rq (t : Station) (s : State) : (setStation t s).rq = s.rq := rfl
@[simp] theorem setStation_pt (t : Station) (s : State) : (setStation t s).pt = s.pt := rfl
@[simp] theorem setStation_iu (t : Station) (s : State) : (setStation t s).iu = s.iu := rfl
@[simp] theorem setStation_hp (t : Station) (s : State) : (setStation t s).hp = s.hp := rfl
@[simp] theorem setStation_cfg (t : Station) (s : State) : (setStation t s).cfg = s.cfg := rfl
@[simp] theorem setStation_ctr (t : Station) (s : State) : (setStation t s).ctr = s.ctr := rfl
@[simp] theorem setStation_resetLow (t : Station) (s : State) :
    (setStation t s).resetLow = s.resetLow := rfl
@[simp] theorem setStation_pending (t : Station) (s : State) :
    (setStation t s).pending = s.pending := rfl
@[simp] theorem setStation_sc_address (t : Station) (s : State) :
    (setStation t s).sc.address = s.sc.address := rfl
@[simp] theorem setStation_sc_faultEvent (t : Station) (s : State) :
    (setStation t s).sc.faultEvent = s.sc.faultEvent := rfl

/-! ### `recordCode` -/

@[simp] theorem recordCode_lac (c : Byte) (s : State) : (recordCode c s).lac = s.lac := rfl
@[simp] theorem recordCode_ts (c : Byte) (s : State) : (recordCode c s).ts = s.ts := rfl
@[simp] theorem recordCode_bp (c : Byte) (s : State) : (recordCode c s).bp = s.bp := rfl
@[simp] theorem recordCode_fr (c : Byte) (s : State) : (recordCode c s).fr = s.fr := rfl
@[simp] theorem recordCode_rq (c : Byte) (s : State) : (recordCode c s).rq = s.rq := rfl
@[simp] theorem recordCode_pt (c : Byte) (s : State) : (recordCode c s).pt = s.pt := rfl
@[simp] theorem recordCode_sc (c : Byte) (s : State) : (recordCode c s).sc = s.sc := rfl
@[simp] theorem recordCode_iu (c : Byte) (s : State) : (recordCode c s).iu = s.iu := rfl
@[simp] theorem recordCode_cfg (c : Byte) (s : State) : (recordCode c s).cfg = s.cfg := rfl
@[simp] theorem recordCode_ctr (c : Byte) (s : State) : (recordCode c s).ctr = s.ctr := rfl
@[simp] theorem recordCode_resetLow (c : Byte) (s : State) :
    (recordCode c s).resetLow = s.resetLow := rfl
@[simp] theorem recordCode_pending (c : Byte) (s : State) :
    (recordCode c s).pending = s.pending := rfl
@[simp] theorem recordCode_hp_winSel (c : Byte) (s : State) :
    (recordCode c s).hp.winSel = s.hp.winSel := rfl
@[simp] theorem recordCode_hp_winOfs (c : Byte) (s : State) :
    (recordCode c s).hp.winOfs = s.hp.winOfs := rfl
@[simp] theorem recordCode_hp_args (c : Byte) (s : State) :
    (recordCode c s).hp.args = s.hp.args := rfl
@[simp] theorem recordCode_hp_res (c : Byte) (s : State) : (recordCode c s).hp.res = s.hp.res := rfl
@[simp] theorem recordCode_hp_cst (c : Byte) (s : State) : (recordCode c s).hp.cst = s.hp.cst := rfl

/-! ### `drive` -/

@[simp] theorem drive_lac (v : Byte) (s : State) : (drive v s).lac = s.lac := rfl
@[simp] theorem drive_ts (v : Byte) (s : State) : (drive v s).ts = s.ts := rfl
@[simp] theorem drive_bp (v : Byte) (s : State) : (drive v s).bp = s.bp := rfl
@[simp] theorem drive_fr (v : Byte) (s : State) : (drive v s).fr = s.fr := rfl
@[simp] theorem drive_rq (v : Byte) (s : State) : (drive v s).rq = s.rq := rfl
@[simp] theorem drive_pt (v : Byte) (s : State) : (drive v s).pt = s.pt := rfl
@[simp] theorem drive_sc (v : Byte) (s : State) : (drive v s).sc = s.sc := rfl
@[simp] theorem drive_iu (v : Byte) (s : State) : (drive v s).iu = s.iu := rfl
@[simp] theorem drive_cfg (v : Byte) (s : State) : (drive v s).cfg = s.cfg := rfl
@[simp] theorem drive_ctr (v : Byte) (s : State) : (drive v s).ctr = s.ctr := rfl
@[simp] theorem drive_resetLow (v : Byte) (s : State) : (drive v s).resetLow = s.resetLow := rfl
@[simp] theorem drive_pending (v : Byte) (s : State) : (drive v s).pending = s.pending := rfl
@[simp] theorem drive_hp_winSel (v : Byte) (s : State) : (drive v s).hp.winSel = s.hp.winSel := rfl
@[simp] theorem drive_hp_winOfs (v : Byte) (s : State) : (drive v s).hp.winOfs = s.hp.winOfs := rfl
@[simp] theorem drive_hp_args (v : Byte) (s : State) : (drive v s).hp.args = s.hp.args := rfl
@[simp] theorem drive_hp_res (v : Byte) (s : State) : (drive v s).hp.res = s.hp.res := rfl
@[simp] theorem drive_hp_cst (v : Byte) (s : State) : (drive v s).hp.cst = s.hp.cst := rfl
@[simp] theorem drive_hp_cmd (v : Byte) (s : State) : (drive v s).hp.cmd = s.hp.cmd := rfl

/-! ### `stepWindow` -/

@[simp] theorem stepWindow_lac (s : State) : (stepWindow s).lac = s.lac := rfl
@[simp] theorem stepWindow_ts (s : State) : (stepWindow s).ts = s.ts := rfl
@[simp] theorem stepWindow_bp (s : State) : (stepWindow s).bp = s.bp := rfl
@[simp] theorem stepWindow_fr (s : State) : (stepWindow s).fr = s.fr := rfl
@[simp] theorem stepWindow_rq (s : State) : (stepWindow s).rq = s.rq := rfl
@[simp] theorem stepWindow_pt (s : State) : (stepWindow s).pt = s.pt := rfl
@[simp] theorem stepWindow_sc (s : State) : (stepWindow s).sc = s.sc := rfl
@[simp] theorem stepWindow_iu (s : State) : (stepWindow s).iu = s.iu := rfl
@[simp] theorem stepWindow_cfg (s : State) : (stepWindow s).cfg = s.cfg := rfl
@[simp] theorem stepWindow_ctr (s : State) : (stepWindow s).ctr = s.ctr := rfl
@[simp] theorem stepWindow_resetLow (s : State) : (stepWindow s).resetLow = s.resetLow := rfl
@[simp] theorem stepWindow_pending (s : State) : (stepWindow s).pending = s.pending := rfl
@[simp] theorem stepWindow_hp_winSel (s : State) : (stepWindow s).hp.winSel = s.hp.winSel := rfl
@[simp] theorem stepWindow_hp_args (s : State) : (stepWindow s).hp.args = s.hp.args := rfl
@[simp] theorem stepWindow_hp_res (s : State) : (stepWindow s).hp.res = s.hp.res := rfl
@[simp] theorem stepWindow_hp_cst (s : State) : (stepWindow s).hp.cst = s.hp.cst := rfl
@[simp] theorem stepWindow_hp_cmd (s : State) : (stepWindow s).hp.cmd = s.hp.cmd := rfl

/-! ### `startBurst` -/

@[simp] theorem startBurst_ts (m : LacMode) (src : BurstSource) (cs : List Byte) (s : State) :
    (startBurst m src cs s).ts = s.ts := rfl
@[simp] theorem startBurst_bp (m : LacMode) (src : BurstSource) (cs : List Byte) (s : State) :
    (startBurst m src cs s).bp = s.bp := rfl
@[simp] theorem startBurst_fr (m : LacMode) (src : BurstSource) (cs : List Byte) (s : State) :
    (startBurst m src cs s).fr = s.fr := rfl
@[simp] theorem startBurst_rq (m : LacMode) (src : BurstSource) (cs : List Byte) (s : State) :
    (startBurst m src cs s).rq = s.rq := rfl
@[simp] theorem startBurst_pt (m : LacMode) (src : BurstSource) (cs : List Byte) (s : State) :
    (startBurst m src cs s).pt = s.pt := rfl
@[simp] theorem startBurst_sc (m : LacMode) (src : BurstSource) (cs : List Byte) (s : State) :
    (startBurst m src cs s).sc = s.sc := rfl
@[simp] theorem startBurst_iu (m : LacMode) (src : BurstSource) (cs : List Byte) (s : State) :
    (startBurst m src cs s).iu = s.iu := rfl
@[simp] theorem startBurst_hp (m : LacMode) (src : BurstSource) (cs : List Byte) (s : State) :
    (startBurst m src cs s).hp = s.hp := rfl
@[simp] theorem startBurst_cfg (m : LacMode) (src : BurstSource) (cs : List Byte) (s : State) :
    (startBurst m src cs s).cfg = s.cfg := rfl
@[simp] theorem startBurst_ctr (m : LacMode) (src : BurstSource) (cs : List Byte) (s : State) :
    (startBurst m src cs s).ctr = s.ctr := rfl
@[simp] theorem startBurst_resetLow (m : LacMode) (src : BurstSource) (cs : List Byte) (s : State) :
    (startBurst m src cs s).resetLow = s.resetLow := rfl
@[simp] theorem startBurst_pending (m : LacMode) (src : BurstSource) (cs : List Byte) (s : State) :
    (startBurst m src cs s).pending = s.pending := rfl
@[simp] theorem startBurst_lac_quiet (m : LacMode) (src : BurstSource) (cs : List Byte) (s : State) :
    (startBurst m src cs s).lac.quiet = s.lac.quiet := rfl
@[simp] theorem startBurst_lac_demoted (m : LacMode) (src : BurstSource) (cs : List Byte) (s : State) :
    (startBurst m src cs s).lac.demoted = s.lac.demoted := rfl
@[simp] theorem startBurst_lac_faults (m : LacMode) (src : BurstSource) (cs : List Byte) (s : State) :
    (startBurst m src cs s).lac.faults = s.lac.faults := rfl
@[simp] theorem startBurst_lac_offer (m : LacMode) (src : BurstSource) (cs : List Byte) (s : State) :
    (startBurst m src cs s).lac.offer = s.lac.offer := rfl
@[simp] theorem startBurst_lac_order (m : LacMode) (src : BurstSource) (cs : List Byte) (s : State) :
    (startBurst m src cs s).lac.order = s.lac.order := rfl
@[simp] theorem startBurst_lac_window (m : LacMode) (src : BurstSource) (cs : List Byte) (s : State) :
    (startBurst m src cs s).lac.window = s.lac.window := rfl

/-! ### `stopBurst` -/

@[simp] theorem stopBurst_ts (m : LacMode) (s : State) : (stopBurst m s).ts = s.ts := rfl
@[simp] theorem stopBurst_bp (m : LacMode) (s : State) : (stopBurst m s).bp = s.bp := rfl
@[simp] theorem stopBurst_fr (m : LacMode) (s : State) : (stopBurst m s).fr = s.fr := rfl
@[simp] theorem stopBurst_rq (m : LacMode) (s : State) : (stopBurst m s).rq = s.rq := rfl
@[simp] theorem stopBurst_pt (m : LacMode) (s : State) : (stopBurst m s).pt = s.pt := rfl
@[simp] theorem stopBurst_sc (m : LacMode) (s : State) : (stopBurst m s).sc = s.sc := rfl
@[simp] theorem stopBurst_iu (m : LacMode) (s : State) : (stopBurst m s).iu = s.iu := rfl
@[simp] theorem stopBurst_hp (m : LacMode) (s : State) : (stopBurst m s).hp = s.hp := rfl
@[simp] theorem stopBurst_cfg (m : LacMode) (s : State) : (stopBurst m s).cfg = s.cfg := rfl
@[simp] theorem stopBurst_ctr (m : LacMode) (s : State) : (stopBurst m s).ctr = s.ctr := rfl
@[simp] theorem stopBurst_resetLow (m : LacMode) (s : State) :
    (stopBurst m s).resetLow = s.resetLow := rfl
@[simp] theorem stopBurst_pending (m : LacMode) (s : State) :
    (stopBurst m s).pending = s.pending := rfl
@[simp] theorem stopBurst_lac_quiet (m : LacMode) (s : State) :
    (stopBurst m s).lac.quiet = s.lac.quiet := rfl
@[simp] theorem stopBurst_lac_demoted (m : LacMode) (s : State) :
    (stopBurst m s).lac.demoted = s.lac.demoted := rfl
@[simp] theorem stopBurst_lac_faults (m : LacMode) (s : State) :
    (stopBurst m s).lac.faults = s.lac.faults := rfl
@[simp] theorem stopBurst_lac_offer (m : LacMode) (s : State) :
    (stopBurst m s).lac.offer = s.lac.offer := rfl
@[simp] theorem stopBurst_lac_order (m : LacMode) (s : State) :
    (stopBurst m s).lac.order = s.lac.order := rfl
@[simp] theorem stopBurst_lac_window (m : LacMode) (s : State) :
    (stopBurst m s).lac.window = s.lac.window := rfl
@[simp] theorem stopBurst_lac_path (m : LacMode) (s : State) :
    (stopBurst m s).lac.path = s.lac.path := rfl

/-! ### `demote` -/

@[simp] theorem demote_ts (c : Sys2Proof.Class) (s : State) : (demote c s).ts = s.ts := rfl
@[simp] theorem demote_bp (c : Sys2Proof.Class) (s : State) : (demote c s).bp = s.bp := rfl
@[simp] theorem demote_fr (c : Sys2Proof.Class) (s : State) : (demote c s).fr = s.fr := rfl
@[simp] theorem demote_rq (c : Sys2Proof.Class) (s : State) : (demote c s).rq = s.rq := rfl
@[simp] theorem demote_pt (c : Sys2Proof.Class) (s : State) : (demote c s).pt = s.pt := rfl
@[simp] theorem demote_sc (c : Sys2Proof.Class) (s : State) : (demote c s).sc = s.sc := rfl
@[simp] theorem demote_iu (c : Sys2Proof.Class) (s : State) : (demote c s).iu = s.iu := rfl
@[simp] theorem demote_hp (c : Sys2Proof.Class) (s : State) : (demote c s).hp = s.hp := rfl
@[simp] theorem demote_cfg (c : Sys2Proof.Class) (s : State) : (demote c s).cfg = s.cfg := rfl
@[simp] theorem demote_ctr (c : Sys2Proof.Class) (s : State) : (demote c s).ctr = s.ctr := rfl
@[simp] theorem demote_resetLow (c : Sys2Proof.Class) (s : State) : (demote c s).resetLow = s.resetLow := rfl
@[simp] theorem demote_pending (c : Sys2Proof.Class) (s : State) : (demote c s).pending = s.pending := rfl
@[simp] theorem demote_lac_mode (c : Sys2Proof.Class) (s : State) : (demote c s).lac.mode = s.lac.mode := rfl
@[simp] theorem demote_lac_quiet (c : Sys2Proof.Class) (s : State) :
    (demote c s).lac.quiet = s.lac.quiet := rfl
@[simp] theorem demote_lac_faults (c : Sys2Proof.Class) (s : State) :
    (demote c s).lac.faults = s.lac.faults := rfl
@[simp] theorem demote_lac_offer (c : Sys2Proof.Class) (s : State) :
    (demote c s).lac.offer = s.lac.offer := rfl
@[simp] theorem demote_lac_order (c : Sys2Proof.Class) (s : State) :
    (demote c s).lac.order = s.lac.order := rfl
@[simp] theorem demote_lac_window (c : Sys2Proof.Class) (s : State) :
    (demote c s).lac.window = s.lac.window := rfl
@[simp] theorem demote_lac_burst (c : Sys2Proof.Class) (s : State) :
    (demote c s).lac.burst = s.lac.burst := rfl
@[simp] theorem demote_lac_path (c : Sys2Proof.Class) (s : State) : (demote c s).lac.path = s.lac.path := rfl

/-! ### `clearReachedDemotions` -/

@[simp] theorem clearReachedDemotions_ts (s : State) : (clearReachedDemotions s).ts = s.ts := rfl
@[simp] theorem clearReachedDemotions_bp (s : State) : (clearReachedDemotions s).bp = s.bp := rfl
@[simp] theorem clearReachedDemotions_fr (s : State) : (clearReachedDemotions s).fr = s.fr := rfl
@[simp] theorem clearReachedDemotions_rq (s : State) : (clearReachedDemotions s).rq = s.rq := rfl
@[simp] theorem clearReachedDemotions_pt (s : State) : (clearReachedDemotions s).pt = s.pt := rfl
@[simp] theorem clearReachedDemotions_sc (s : State) : (clearReachedDemotions s).sc = s.sc := rfl
@[simp] theorem clearReachedDemotions_iu (s : State) : (clearReachedDemotions s).iu = s.iu := rfl
@[simp] theorem clearReachedDemotions_hp (s : State) : (clearReachedDemotions s).hp = s.hp := rfl
@[simp] theorem clearReachedDemotions_cfg (s : State) : (clearReachedDemotions s).cfg = s.cfg := rfl
@[simp] theorem clearReachedDemotions_ctr (s : State) : (clearReachedDemotions s).ctr = s.ctr := rfl
@[simp] theorem clearReachedDemotions_resetLow (s : State) :
    (clearReachedDemotions s).resetLow = s.resetLow := rfl
@[simp] theorem clearReachedDemotions_pending (s : State) :
    (clearReachedDemotions s).pending = s.pending := rfl
@[simp] theorem clearReachedDemotions_lac_mode (s : State) :
    (clearReachedDemotions s).lac.mode = s.lac.mode := rfl
@[simp] theorem clearReachedDemotions_lac_quiet (s : State) :
    (clearReachedDemotions s).lac.quiet = s.lac.quiet := rfl
@[simp] theorem clearReachedDemotions_lac_faults (s : State) :
    (clearReachedDemotions s).lac.faults = s.lac.faults := rfl
@[simp] theorem clearReachedDemotions_lac_offer (s : State) :
    (clearReachedDemotions s).lac.offer = s.lac.offer := rfl
@[simp] theorem clearReachedDemotions_lac_order (s : State) :
    (clearReachedDemotions s).lac.order = s.lac.order := rfl
@[simp] theorem clearReachedDemotions_lac_window (s : State) :
    (clearReachedDemotions s).lac.window = s.lac.window := rfl
@[simp] theorem clearReachedDemotions_lac_burst (s : State) :
    (clearReachedDemotions s).lac.burst = s.lac.burst := rfl
@[simp] theorem clearReachedDemotions_lac_path (s : State) :
    (clearReachedDemotions s).lac.path = s.lac.path := rfl

/-! ### `reachQuiet` -/

@[simp] theorem reachQuiet_ts (n : Nat) (s : State) : (reachQuiet n s).ts = s.ts := rfl
@[simp] theorem reachQuiet_bp (n : Nat) (s : State) : (reachQuiet n s).bp = s.bp := rfl
@[simp] theorem reachQuiet_rq (n : Nat) (s : State) : (reachQuiet n s).rq = s.rq := rfl
@[simp] theorem reachQuiet_pt (n : Nat) (s : State) : (reachQuiet n s).pt = s.pt := rfl
@[simp] theorem reachQuiet_sc (n : Nat) (s : State) : (reachQuiet n s).sc = s.sc := rfl
@[simp] theorem reachQuiet_iu (n : Nat) (s : State) : (reachQuiet n s).iu = s.iu := rfl
@[simp] theorem reachQuiet_hp (n : Nat) (s : State) : (reachQuiet n s).hp = s.hp := rfl
@[simp] theorem reachQuiet_cfg (n : Nat) (s : State) : (reachQuiet n s).cfg = s.cfg := rfl
@[simp] theorem reachQuiet_ctr (n : Nat) (s : State) : (reachQuiet n s).ctr = s.ctr := rfl
@[simp] theorem reachQuiet_resetLow (n : Nat) (s : State) :
    (reachQuiet n s).resetLow = s.resetLow := rfl
@[simp] theorem reachQuiet_pending (n : Nat) (s : State) :
    (reachQuiet n s).pending = s.pending := rfl
@[simp] theorem reachQuiet_lac_mode (n : Nat) (s : State) :
    (reachQuiet n s).lac.mode = s.lac.mode := rfl
@[simp] theorem reachQuiet_lac_demoted (n : Nat) (s : State) :
    (reachQuiet n s).lac.demoted = s.lac.demoted := rfl
@[simp] theorem reachQuiet_lac_faults (n : Nat) (s : State) :
    (reachQuiet n s).lac.faults = s.lac.faults := rfl
@[simp] theorem reachQuiet_lac_offer (n : Nat) (s : State) :
    (reachQuiet n s).lac.offer = s.lac.offer := rfl
@[simp] theorem reachQuiet_lac_order (n : Nat) (s : State) :
    (reachQuiet n s).lac.order = s.lac.order := rfl
@[simp] theorem reachQuiet_lac_window (n : Nat) (s : State) :
    (reachQuiet n s).lac.window = s.lac.window := rfl
@[simp] theorem reachQuiet_lac_burst (n : Nat) (s : State) :
    (reachQuiet n s).lac.burst = s.lac.burst := rfl
@[simp] theorem reachQuiet_lac_path (n : Nat) (s : State) :
    (reachQuiet n s).lac.path = s.lac.path := rfl

/-! ### `otherDominant` -/

@[simp] theorem otherDominant_ts (s : State) : (otherDominant s).ts = s.ts := rfl
@[simp] theorem otherDominant_bp (s : State) : (otherDominant s).bp = s.bp := rfl
@[simp] theorem otherDominant_fr (s : State) : (otherDominant s).fr = s.fr := rfl
@[simp] theorem otherDominant_rq (s : State) : (otherDominant s).rq = s.rq := rfl
@[simp] theorem otherDominant_pt (s : State) : (otherDominant s).pt = s.pt := rfl
@[simp] theorem otherDominant_sc (s : State) : (otherDominant s).sc = s.sc := rfl
@[simp] theorem otherDominant_iu (s : State) : (otherDominant s).iu = s.iu := rfl
@[simp] theorem otherDominant_hp (s : State) : (otherDominant s).hp = s.hp := rfl
@[simp] theorem otherDominant_cfg (s : State) : (otherDominant s).cfg = s.cfg := rfl
@[simp] theorem otherDominant_ctr (s : State) : (otherDominant s).ctr = s.ctr := rfl
@[simp] theorem otherDominant_resetLow (s : State) : (otherDominant s).resetLow = s.resetLow := rfl
@[simp] theorem otherDominant_pending (s : State) : (otherDominant s).pending = s.pending := rfl
@[simp] theorem otherDominant_lac_mode (s : State) : (otherDominant s).lac.mode = s.lac.mode := rfl
@[simp] theorem otherDominant_lac_demoted (s : State) :
    (otherDominant s).lac.demoted = s.lac.demoted := rfl
@[simp] theorem otherDominant_lac_faults (s : State) :
    (otherDominant s).lac.faults = s.lac.faults := rfl
@[simp] theorem otherDominant_lac_offer (s : State) :
    (otherDominant s).lac.offer = s.lac.offer := rfl
@[simp] theorem otherDominant_lac_window (s : State) :
    (otherDominant s).lac.window = s.lac.window := rfl
@[simp] theorem otherDominant_lac_burst (s : State) :
    (otherDominant s).lac.burst = s.lac.burst := rfl
@[simp] theorem otherDominant_lac_path (s : State) : (otherDominant s).lac.path = s.lac.path := rfl

/-! ### `countFault` -/

@[simp] theorem countFault_ts (s : State) : (countFault s).ts = s.ts := rfl
@[simp] theorem countFault_bp (s : State) : (countFault s).bp = s.bp := rfl
@[simp] theorem countFault_fr (s : State) : (countFault s).fr = s.fr := rfl
@[simp] theorem countFault_rq (s : State) : (countFault s).rq = s.rq := rfl
@[simp] theorem countFault_pt (s : State) : (countFault s).pt = s.pt := rfl
@[simp] theorem countFault_sc (s : State) : (countFault s).sc = s.sc := rfl
@[simp] theorem countFault_iu (s : State) : (countFault s).iu = s.iu := rfl
@[simp] theorem countFault_hp (s : State) : (countFault s).hp = s.hp := rfl
@[simp] theorem countFault_cfg (s : State) : (countFault s).cfg = s.cfg := rfl
@[simp] theorem countFault_ctr (s : State) : (countFault s).ctr = s.ctr := rfl
@[simp] theorem countFault_resetLow (s : State) : (countFault s).resetLow = s.resetLow := rfl
@[simp] theorem countFault_pending (s : State) : (countFault s).pending = s.pending := rfl
@[simp] theorem countFault_lac_mode (s : State) : (countFault s).lac.mode = s.lac.mode := rfl
@[simp] theorem countFault_lac_quiet (s : State) : (countFault s).lac.quiet = s.lac.quiet := rfl
@[simp] theorem countFault_lac_demoted (s : State) :
    (countFault s).lac.demoted = s.lac.demoted := rfl
@[simp] theorem countFault_lac_offer (s : State) : (countFault s).lac.offer = s.lac.offer := rfl
@[simp] theorem countFault_lac_order (s : State) : (countFault s).lac.order = s.lac.order := rfl
@[simp] theorem countFault_lac_window (s : State) : (countFault s).lac.window = s.lac.window := rfl
@[simp] theorem countFault_lac_burst (s : State) : (countFault s).lac.burst = s.lac.burst := rfl
@[simp] theorem countFault_lac_path (s : State) : (countFault s).lac.path = s.lac.path := rfl

/-! ### `clearFaults` -/

@[simp] theorem clearFaults_ts (s : State) : (clearFaults s).ts = s.ts := rfl
@[simp] theorem clearFaults_bp (s : State) : (clearFaults s).bp = s.bp := rfl
@[simp] theorem clearFaults_fr (s : State) : (clearFaults s).fr = s.fr := rfl
@[simp] theorem clearFaults_rq (s : State) : (clearFaults s).rq = s.rq := rfl
@[simp] theorem clearFaults_pt (s : State) : (clearFaults s).pt = s.pt := rfl
@[simp] theorem clearFaults_sc (s : State) : (clearFaults s).sc = s.sc := rfl
@[simp] theorem clearFaults_iu (s : State) : (clearFaults s).iu = s.iu := rfl
@[simp] theorem clearFaults_hp (s : State) : (clearFaults s).hp = s.hp := rfl
@[simp] theorem clearFaults_cfg (s : State) : (clearFaults s).cfg = s.cfg := rfl
@[simp] theorem clearFaults_ctr (s : State) : (clearFaults s).ctr = s.ctr := rfl
@[simp] theorem clearFaults_resetLow (s : State) : (clearFaults s).resetLow = s.resetLow := rfl
@[simp] theorem clearFaults_pending (s : State) : (clearFaults s).pending = s.pending := rfl
@[simp] theorem clearFaults_lac_mode (s : State) : (clearFaults s).lac.mode = s.lac.mode := rfl
@[simp] theorem clearFaults_lac_quiet (s : State) : (clearFaults s).lac.quiet = s.lac.quiet := rfl
@[simp] theorem clearFaults_lac_demoted (s : State) :
    (clearFaults s).lac.demoted = s.lac.demoted := rfl
@[simp] theorem clearFaults_lac_offer (s : State) : (clearFaults s).lac.offer = s.lac.offer := rfl
@[simp] theorem clearFaults_lac_order (s : State) : (clearFaults s).lac.order = s.lac.order := rfl
@[simp] theorem clearFaults_lac_window (s : State) :
    (clearFaults s).lac.window = s.lac.window := rfl
@[simp] theorem clearFaults_lac_burst (s : State) : (clearFaults s).lac.burst = s.lac.burst := rfl
@[simp] theorem clearFaults_lac_path (s : State) : (clearFaults s).lac.path = s.lac.path := rfl

/-! ### `setGroups` -/

@[simp] theorem setGroups_lac (g : List Nat) (s : State) : (setGroups g s).lac = s.lac := rfl
@[simp] theorem setGroups_ts (g : List Nat) (s : State) : (setGroups g s).ts = s.ts := rfl
@[simp] theorem setGroups_bp (g : List Nat) (s : State) : (setGroups g s).bp = s.bp := rfl
@[simp] theorem setGroups_rq (g : List Nat) (s : State) : (setGroups g s).rq = s.rq := rfl
@[simp] theorem setGroups_pt (g : List Nat) (s : State) : (setGroups g s).pt = s.pt := rfl
@[simp] theorem setGroups_sc (g : List Nat) (s : State) : (setGroups g s).sc = s.sc := rfl
@[simp] theorem setGroups_iu (g : List Nat) (s : State) : (setGroups g s).iu = s.iu := rfl
@[simp] theorem setGroups_hp (g : List Nat) (s : State) : (setGroups g s).hp = s.hp := rfl
@[simp] theorem setGroups_cfg (g : List Nat) (s : State) : (setGroups g s).cfg = s.cfg := rfl
@[simp] theorem setGroups_ctr (g : List Nat) (s : State) : (setGroups g s).ctr = s.ctr := rfl
@[simp] theorem setGroups_resetLow (g : List Nat) (s : State) :
    (setGroups g s).resetLow = s.resetLow := rfl
@[simp] theorem setGroups_pending (g : List Nat) (s : State) :
    (setGroups g s).pending = s.pending := rfl
@[simp] theorem setGroups_fr_mode (g : List Nat) (s : State) :
    (setGroups g s).fr.mode = s.fr.mode := rfl
@[simp] theorem setGroups_fr_guard (g : List Nat) (s : State) :
    (setGroups g s).fr.guard = s.fr.guard := rfl
@[simp] theorem setGroups_fr_record (g : List Nat) (s : State) :
    (setGroups g s).fr.record = s.fr.record := rfl

/-! ### `discardNotice` -/

@[simp] theorem discardNotice_lac (s : State) : (discardNotice s).lac = s.lac := rfl
@[simp] theorem discardNotice_ts (s : State) : (discardNotice s).ts = s.ts := rfl
@[simp] theorem discardNotice_bp (s : State) : (discardNotice s).bp = s.bp := rfl
@[simp] theorem discardNotice_fr (s : State) : (discardNotice s).fr = s.fr := rfl
@[simp] theorem discardNotice_pt (s : State) : (discardNotice s).pt = s.pt := rfl
@[simp] theorem discardNotice_sc (s : State) : (discardNotice s).sc = s.sc := rfl
@[simp] theorem discardNotice_iu (s : State) : (discardNotice s).iu = s.iu := rfl
@[simp] theorem discardNotice_hp (s : State) : (discardNotice s).hp = s.hp := rfl
@[simp] theorem discardNotice_cfg (s : State) : (discardNotice s).cfg = s.cfg := rfl
@[simp] theorem discardNotice_ctr (s : State) : (discardNotice s).ctr = s.ctr := rfl
@[simp] theorem discardNotice_resetLow (s : State) : (discardNotice s).resetLow = s.resetLow := rfl
@[simp] theorem discardNotice_pending (s : State) : (discardNotice s).pending = s.pending := rfl
@[simp] theorem discardNotice_rq_entries (s : State) :
    (discardNotice s).rq.entries = s.rq.entries := rfl
@[simp] theorem discardNotice_rq_refused (s : State) :
    (discardNotice s).rq.refused = s.rq.refused := rfl
@[simp] theorem discardNotice_rq_overflow (s : State) :
    (discardNotice s).rq.overflow = s.rq.overflow := rfl
@[simp] theorem discardNotice_rq_paused (s : State) :
    (discardNotice s).rq.paused = s.rq.paused := rfl
@[simp] theorem discardNotice_rq_congested (s : State) :
    (discardNotice s).rq.congested = s.rq.congested := rfl
@[simp] theorem discardNotice_rq_drop (s : State) : (discardNotice s).rq.drop = s.rq.drop := rfl
@[simp] theorem discardNotice_rq_loss (s : State) : (discardNotice s).rq.loss = s.rq.loss := rfl
@[simp] theorem discardNotice_rq_stale (s : State) : (discardNotice s).rq.stale = s.rq.stale := rfl
@[simp] theorem discardNotice_rq_rxStale (s : State) :
    (discardNotice s).rq.rxStale = s.rq.rxStale := rfl

/-! ### `revertNotice` -/

@[simp] theorem revertNotice_lac (s : State) : (revertNotice s).lac = s.lac := rfl
@[simp] theorem revertNotice_ts (s : State) : (revertNotice s).ts = s.ts := rfl
@[simp] theorem revertNotice_bp (s : State) : (revertNotice s).bp = s.bp := rfl
@[simp] theorem revertNotice_fr (s : State) : (revertNotice s).fr = s.fr := rfl
@[simp] theorem revertNotice_pt (s : State) : (revertNotice s).pt = s.pt := rfl
@[simp] theorem revertNotice_sc (s : State) : (revertNotice s).sc = s.sc := rfl
@[simp] theorem revertNotice_iu (s : State) : (revertNotice s).iu = s.iu := rfl
@[simp] theorem revertNotice_hp (s : State) : (revertNotice s).hp = s.hp := rfl
@[simp] theorem revertNotice_cfg (s : State) : (revertNotice s).cfg = s.cfg := rfl
@[simp] theorem revertNotice_ctr (s : State) : (revertNotice s).ctr = s.ctr := rfl
@[simp] theorem revertNotice_resetLow (s : State) : (revertNotice s).resetLow = s.resetLow := rfl
@[simp] theorem revertNotice_pending (s : State) : (revertNotice s).pending = s.pending := rfl
@[simp] theorem revertNotice_rq_entries (s : State) :
    (revertNotice s).rq.entries = s.rq.entries := rfl
@[simp] theorem revertNotice_rq_refused (s : State) :
    (revertNotice s).rq.refused = s.rq.refused := rfl
@[simp] theorem revertNotice_rq_overflow (s : State) :
    (revertNotice s).rq.overflow = s.rq.overflow := rfl
@[simp] theorem revertNotice_rq_paused (s : State) : (revertNotice s).rq.paused = s.rq.paused := rfl
@[simp] theorem revertNotice_rq_congested (s : State) :
    (revertNotice s).rq.congested = s.rq.congested := rfl
@[simp] theorem revertNotice_rq_drop (s : State) : (revertNotice s).rq.drop = s.rq.drop := rfl
@[simp] theorem revertNotice_rq_loss (s : State) : (revertNotice s).rq.loss = s.rq.loss := rfl
@[simp] theorem revertNotice_rq_stale (s : State) : (revertNotice s).rq.stale = s.rq.stale := rfl
@[simp] theorem revertNotice_rq_rxStale (s : State) :
    (revertNotice s).rq.rxStale = s.rq.rxStale := rfl

/-! ### `enterCongestion` -/

@[simp] theorem enterCongestion_lac (s : State) : (enterCongestion s).lac = s.lac := rfl
@[simp] theorem enterCongestion_ts (s : State) : (enterCongestion s).ts = s.ts := rfl
@[simp] theorem enterCongestion_bp (s : State) : (enterCongestion s).bp = s.bp := rfl
@[simp] theorem enterCongestion_fr (s : State) : (enterCongestion s).fr = s.fr := rfl
@[simp] theorem enterCongestion_pt (s : State) : (enterCongestion s).pt = s.pt := rfl
@[simp] theorem enterCongestion_sc (s : State) : (enterCongestion s).sc = s.sc := rfl
@[simp] theorem enterCongestion_hp (s : State) : (enterCongestion s).hp = s.hp := rfl
@[simp] theorem enterCongestion_cfg (s : State) : (enterCongestion s).cfg = s.cfg := rfl
@[simp] theorem enterCongestion_ctr (s : State) : (enterCongestion s).ctr = s.ctr := rfl
@[simp] theorem enterCongestion_resetLow (s : State) :
    (enterCongestion s).resetLow = s.resetLow := rfl
@[simp] theorem enterCongestion_pending (s : State) : (enterCongestion s).pending = s.pending := rfl
@[simp] theorem enterCongestion_rq_entries (s : State) :
    (enterCongestion s).rq.entries = s.rq.entries := rfl
@[simp] theorem enterCongestion_rq_refused (s : State) :
    (enterCongestion s).rq.refused = s.rq.refused := rfl
@[simp] theorem enterCongestion_rq_overflow (s : State) :
    (enterCongestion s).rq.overflow = s.rq.overflow := rfl
@[simp] theorem enterCongestion_rq_paused (s : State) :
    (enterCongestion s).rq.paused = s.rq.paused := rfl
@[simp] theorem enterCongestion_rq_notice (s : State) :
    (enterCongestion s).rq.notice = s.rq.notice := rfl
@[simp] theorem enterCongestion_rq_drop (s : State) : (enterCongestion s).rq.drop = s.rq.drop := rfl
@[simp] theorem enterCongestion_rq_loss (s : State) : (enterCongestion s).rq.loss = s.rq.loss := rfl
@[simp] theorem enterCongestion_rq_stale (s : State) :
    (enterCongestion s).rq.stale = s.rq.stale := rfl
@[simp] theorem enterCongestion_rq_rxStale (s : State) :
    (enterCongestion s).rq.rxStale = s.rq.rxStale := rfl
@[simp] theorem enterCongestion_iu_inten (s : State) :
    (enterCongestion s).iu.inten = s.iu.inten := rfl

/-! ### `restartStale` -/

@[simp] theorem restartStale_lac (s : State) : (restartStale s).lac = s.lac := rfl
@[simp] theorem restartStale_ts (s : State) : (restartStale s).ts = s.ts := rfl
@[simp] theorem restartStale_bp (s : State) : (restartStale s).bp = s.bp := rfl
@[simp] theorem restartStale_fr (s : State) : (restartStale s).fr = s.fr := rfl
@[simp] theorem restartStale_pt (s : State) : (restartStale s).pt = s.pt := rfl
@[simp] theorem restartStale_sc (s : State) : (restartStale s).sc = s.sc := rfl
@[simp] theorem restartStale_iu (s : State) : (restartStale s).iu = s.iu := rfl
@[simp] theorem restartStale_hp (s : State) : (restartStale s).hp = s.hp := rfl
@[simp] theorem restartStale_cfg (s : State) : (restartStale s).cfg = s.cfg := rfl
@[simp] theorem restartStale_ctr (s : State) : (restartStale s).ctr = s.ctr := rfl
@[simp] theorem restartStale_resetLow (s : State) : (restartStale s).resetLow = s.resetLow := rfl
@[simp] theorem restartStale_pending (s : State) : (restartStale s).pending = s.pending := rfl
@[simp] theorem restartStale_rq_entries (s : State) :
    (restartStale s).rq.entries = s.rq.entries := rfl
@[simp] theorem restartStale_rq_refused (s : State) :
    (restartStale s).rq.refused = s.rq.refused := rfl
@[simp] theorem restartStale_rq_overflow (s : State) :
    (restartStale s).rq.overflow = s.rq.overflow := rfl
@[simp] theorem restartStale_rq_paused (s : State) : (restartStale s).rq.paused = s.rq.paused := rfl
@[simp] theorem restartStale_rq_congested (s : State) :
    (restartStale s).rq.congested = s.rq.congested := rfl
@[simp] theorem restartStale_rq_notice (s : State) : (restartStale s).rq.notice = s.rq.notice := rfl
@[simp] theorem restartStale_rq_drop (s : State) : (restartStale s).rq.drop = s.rq.drop := rfl
@[simp] theorem restartStale_rq_loss (s : State) : (restartStale s).rq.loss = s.rq.loss := rfl

/-! ### `judgeStale` -/

@[simp] theorem judgeStale_lac (s : State) : (judgeStale s).lac = s.lac := rfl
@[simp] theorem judgeStale_ts (s : State) : (judgeStale s).ts = s.ts := rfl
@[simp] theorem judgeStale_bp (s : State) : (judgeStale s).bp = s.bp := rfl
@[simp] theorem judgeStale_fr (s : State) : (judgeStale s).fr = s.fr := rfl
@[simp] theorem judgeStale_pt (s : State) : (judgeStale s).pt = s.pt := rfl
@[simp] theorem judgeStale_sc (s : State) : (judgeStale s).sc = s.sc := rfl
@[simp] theorem judgeStale_iu (s : State) : (judgeStale s).iu = s.iu := rfl
@[simp] theorem judgeStale_hp (s : State) : (judgeStale s).hp = s.hp := rfl
@[simp] theorem judgeStale_cfg (s : State) : (judgeStale s).cfg = s.cfg := rfl
@[simp] theorem judgeStale_ctr (s : State) : (judgeStale s).ctr = s.ctr := rfl
@[simp] theorem judgeStale_resetLow (s : State) : (judgeStale s).resetLow = s.resetLow := rfl
@[simp] theorem judgeStale_pending (s : State) : (judgeStale s).pending = s.pending := rfl
@[simp] theorem judgeStale_rq_entries (s : State) : (judgeStale s).rq.entries = s.rq.entries := rfl
@[simp] theorem judgeStale_rq_refused (s : State) : (judgeStale s).rq.refused = s.rq.refused := rfl
@[simp] theorem judgeStale_rq_overflow (s : State) :
    (judgeStale s).rq.overflow = s.rq.overflow := rfl
@[simp] theorem judgeStale_rq_paused (s : State) : (judgeStale s).rq.paused = s.rq.paused := rfl
@[simp] theorem judgeStale_rq_congested (s : State) :
    (judgeStale s).rq.congested = s.rq.congested := rfl
@[simp] theorem judgeStale_rq_notice (s : State) : (judgeStale s).rq.notice = s.rq.notice := rfl
@[simp] theorem judgeStale_rq_drop (s : State) : (judgeStale s).rq.drop = s.rq.drop := rfl
@[simp] theorem judgeStale_rq_loss (s : State) : (judgeStale s).rq.loss = s.rq.loss := rfl
@[simp] theorem judgeStale_rq_rxStale (s : State) : (judgeStale s).rq.rxStale = s.rq.rxStale := rfl

/-! ### `reportLoss` -/

@[simp] theorem reportLoss_lac (s : State) : (reportLoss s).lac = s.lac := rfl
@[simp] theorem reportLoss_ts (s : State) : (reportLoss s).ts = s.ts := rfl
@[simp] theorem reportLoss_bp (s : State) : (reportLoss s).bp = s.bp := rfl
@[simp] theorem reportLoss_fr (s : State) : (reportLoss s).fr = s.fr := rfl
@[simp] theorem reportLoss_pt (s : State) : (reportLoss s).pt = s.pt := rfl
@[simp] theorem reportLoss_sc (s : State) : (reportLoss s).sc = s.sc := rfl
@[simp] theorem reportLoss_iu (s : State) : (reportLoss s).iu = s.iu := rfl
@[simp] theorem reportLoss_hp (s : State) : (reportLoss s).hp = s.hp := rfl
@[simp] theorem reportLoss_cfg (s : State) : (reportLoss s).cfg = s.cfg := rfl
@[simp] theorem reportLoss_resetLow (s : State) : (reportLoss s).resetLow = s.resetLow := rfl
@[simp] theorem reportLoss_pending (s : State) : (reportLoss s).pending = s.pending := rfl
@[simp] theorem reportLoss_rq_entries (s : State) : (reportLoss s).rq.entries = s.rq.entries := rfl
@[simp] theorem reportLoss_rq_refused (s : State) : (reportLoss s).rq.refused = s.rq.refused := rfl
@[simp] theorem reportLoss_rq_overflow (s : State) :
    (reportLoss s).rq.overflow = s.rq.overflow := rfl
@[simp] theorem reportLoss_rq_paused (s : State) : (reportLoss s).rq.paused = s.rq.paused := rfl
@[simp] theorem reportLoss_rq_congested (s : State) :
    (reportLoss s).rq.congested = s.rq.congested := rfl
@[simp] theorem reportLoss_rq_notice (s : State) : (reportLoss s).rq.notice = s.rq.notice := rfl
@[simp] theorem reportLoss_rq_stale (s : State) : (reportLoss s).rq.stale = s.rq.stale := rfl
@[simp] theorem reportLoss_rq_rxStale (s : State) : (reportLoss s).rq.rxStale = s.rq.rxStale := rfl

/-! ### `ackPeer` -/

@[simp] theorem ackPeer_lac (a : Nat) (s : State) : (ackPeer a s).lac = s.lac := rfl
@[simp] theorem ackPeer_ts (a : Nat) (s : State) : (ackPeer a s).ts = s.ts := rfl
@[simp] theorem ackPeer_bp (a : Nat) (s : State) : (ackPeer a s).bp = s.bp := rfl
@[simp] theorem ackPeer_fr (a : Nat) (s : State) : (ackPeer a s).fr = s.fr := rfl
@[simp] theorem ackPeer_rq (a : Nat) (s : State) : (ackPeer a s).rq = s.rq := rfl
@[simp] theorem ackPeer_sc (a : Nat) (s : State) : (ackPeer a s).sc = s.sc := rfl
@[simp] theorem ackPeer_iu (a : Nat) (s : State) : (ackPeer a s).iu = s.iu := rfl
@[simp] theorem ackPeer_hp (a : Nat) (s : State) : (ackPeer a s).hp = s.hp := rfl
@[simp] theorem ackPeer_cfg (a : Nat) (s : State) : (ackPeer a s).cfg = s.cfg := rfl
@[simp] theorem ackPeer_ctr (a : Nat) (s : State) : (ackPeer a s).ctr = s.ctr := rfl
@[simp] theorem ackPeer_resetLow (a : Nat) (s : State) : (ackPeer a s).resetLow = s.resetLow := rfl
@[simp] theorem ackPeer_pending (a : Nat) (s : State) : (ackPeer a s).pending = s.pending := rfl

/-! ### `busyPeer` -/

@[simp] theorem busyPeer_lac (a : Nat) (s : State) : (busyPeer a s).lac = s.lac := rfl
@[simp] theorem busyPeer_ts (a : Nat) (s : State) : (busyPeer a s).ts = s.ts := rfl
@[simp] theorem busyPeer_bp (a : Nat) (s : State) : (busyPeer a s).bp = s.bp := rfl
@[simp] theorem busyPeer_fr (a : Nat) (s : State) : (busyPeer a s).fr = s.fr := rfl
@[simp] theorem busyPeer_rq (a : Nat) (s : State) : (busyPeer a s).rq = s.rq := rfl
@[simp] theorem busyPeer_sc (a : Nat) (s : State) : (busyPeer a s).sc = s.sc := rfl
@[simp] theorem busyPeer_hp (a : Nat) (s : State) : (busyPeer a s).hp = s.hp := rfl
@[simp] theorem busyPeer_cfg (a : Nat) (s : State) : (busyPeer a s).cfg = s.cfg := rfl
@[simp] theorem busyPeer_ctr (a : Nat) (s : State) : (busyPeer a s).ctr = s.ctr := rfl
@[simp] theorem busyPeer_resetLow (a : Nat) (s : State) :
    (busyPeer a s).resetLow = s.resetLow := rfl
@[simp] theorem busyPeer_pending (a : Nat) (s : State) : (busyPeer a s).pending = s.pending := rfl
@[simp] theorem busyPeer_iu_inten (a : Nat) (s : State) :
    (busyPeer a s).iu.inten = s.iu.inten := rfl

/-! ### `orderResponse` -/

@[simp] theorem orderResponse_ts (k : ResponseKind) (v : Byte) (r : Rx) (s : State) :
    (orderResponse k v r s).ts = s.ts := rfl
@[simp] theorem orderResponse_bp (k : ResponseKind) (v : Byte) (r : Rx) (s : State) :
    (orderResponse k v r s).bp = s.bp := rfl
@[simp] theorem orderResponse_fr (k : ResponseKind) (v : Byte) (r : Rx) (s : State) :
    (orderResponse k v r s).fr = s.fr := rfl
@[simp] theorem orderResponse_rq (k : ResponseKind) (v : Byte) (r : Rx) (s : State) :
    (orderResponse k v r s).rq = s.rq := rfl
@[simp] theorem orderResponse_pt (k : ResponseKind) (v : Byte) (r : Rx) (s : State) :
    (orderResponse k v r s).pt = s.pt := rfl
@[simp] theorem orderResponse_sc (k : ResponseKind) (v : Byte) (r : Rx) (s : State) :
    (orderResponse k v r s).sc = s.sc := rfl
@[simp] theorem orderResponse_iu (k : ResponseKind) (v : Byte) (r : Rx) (s : State) :
    (orderResponse k v r s).iu = s.iu := rfl
@[simp] theorem orderResponse_hp (k : ResponseKind) (v : Byte) (r : Rx) (s : State) :
    (orderResponse k v r s).hp = s.hp := rfl
@[simp] theorem orderResponse_cfg (k : ResponseKind) (v : Byte) (r : Rx) (s : State) :
    (orderResponse k v r s).cfg = s.cfg := rfl
@[simp] theorem orderResponse_ctr (k : ResponseKind) (v : Byte) (r : Rx) (s : State) :
    (orderResponse k v r s).ctr = s.ctr := rfl
@[simp] theorem orderResponse_resetLow (k : ResponseKind) (v : Byte) (r : Rx) (s : State) :
    (orderResponse k v r s).resetLow = s.resetLow := rfl
@[simp] theorem orderResponse_pending (k : ResponseKind) (v : Byte) (r : Rx) (s : State) :
    (orderResponse k v r s).pending = s.pending := rfl
@[simp] theorem orderResponse_lac_mode (k : ResponseKind) (v : Byte) (r : Rx) (s : State) :
    (orderResponse k v r s).lac.mode = s.lac.mode := rfl
@[simp] theorem orderResponse_lac_quiet (k : ResponseKind) (v : Byte) (r : Rx) (s : State) :
    (orderResponse k v r s).lac.quiet = s.lac.quiet := rfl
@[simp] theorem orderResponse_lac_demoted (k : ResponseKind) (v : Byte) (r : Rx) (s : State) :
    (orderResponse k v r s).lac.demoted = s.lac.demoted := rfl
@[simp] theorem orderResponse_lac_faults (k : ResponseKind) (v : Byte) (r : Rx) (s : State) :
    (orderResponse k v r s).lac.faults = s.lac.faults := rfl
@[simp] theorem orderResponse_lac_offer (k : ResponseKind) (v : Byte) (r : Rx) (s : State) :
    (orderResponse k v r s).lac.offer = s.lac.offer := rfl
@[simp] theorem orderResponse_lac_window (k : ResponseKind) (v : Byte) (r : Rx) (s : State) :
    (orderResponse k v r s).lac.window = s.lac.window := rfl
@[simp] theorem orderResponse_lac_burst (k : ResponseKind) (v : Byte) (r : Rx) (s : State) :
    (orderResponse k v r s).lac.burst = s.lac.burst := rfl
@[simp] theorem orderResponse_lac_path (k : ResponseKind) (v : Byte) (r : Rx) (s : State) :
    (orderResponse k v r s).lac.path = s.lac.path := rfl

/-! ### `stampCreated` -/

@[simp] theorem stampCreated_ts (b : Bool) (s : State) : (stampCreated b s).ts = s.ts := rfl
@[simp] theorem stampCreated_bp (b : Bool) (s : State) : (stampCreated b s).bp = s.bp := rfl
@[simp] theorem stampCreated_fr (b : Bool) (s : State) : (stampCreated b s).fr = s.fr := rfl
@[simp] theorem stampCreated_rq (b : Bool) (s : State) : (stampCreated b s).rq = s.rq := rfl
@[simp] theorem stampCreated_pt (b : Bool) (s : State) : (stampCreated b s).pt = s.pt := rfl
@[simp] theorem stampCreated_sc (b : Bool) (s : State) : (stampCreated b s).sc = s.sc := rfl
@[simp] theorem stampCreated_iu (b : Bool) (s : State) : (stampCreated b s).iu = s.iu := rfl
@[simp] theorem stampCreated_hp (b : Bool) (s : State) : (stampCreated b s).hp = s.hp := rfl
@[simp] theorem stampCreated_cfg (b : Bool) (s : State) : (stampCreated b s).cfg = s.cfg := rfl
@[simp] theorem stampCreated_ctr (b : Bool) (s : State) : (stampCreated b s).ctr = s.ctr := rfl
@[simp] theorem stampCreated_resetLow (b : Bool) (s : State) : (stampCreated b s).resetLow = s.resetLow := rfl
@[simp] theorem stampCreated_pending (b : Bool) (s : State) : (stampCreated b s).pending = s.pending := rfl
@[simp] theorem stampCreated_lac_mode (b : Bool) (s : State) : (stampCreated b s).lac.mode = s.lac.mode := rfl
@[simp] theorem stampCreated_lac_quiet (b : Bool) (s : State) : (stampCreated b s).lac.quiet = s.lac.quiet := rfl
@[simp] theorem stampCreated_lac_demoted (b : Bool) (s : State) :
    (stampCreated b s).lac.demoted = s.lac.demoted := rfl
@[simp] theorem stampCreated_lac_faults (b : Bool) (s : State) : (stampCreated b s).lac.faults = s.lac.faults := rfl
@[simp] theorem stampCreated_lac_offer (b : Bool) (s : State) : (stampCreated b s).lac.offer = s.lac.offer := rfl
@[simp] theorem stampCreated_lac_window (b : Bool) (s : State) : (stampCreated b s).lac.window = s.lac.window := rfl
@[simp] theorem stampCreated_lac_burst (b : Bool) (s : State) : (stampCreated b s).lac.burst = s.lac.burst := rfl
@[simp] theorem stampCreated_lac_path (b : Bool) (s : State) : (stampCreated b s).lac.path = s.lac.path := rfl

/-! ### `enterBody` -/

@[simp] theorem enterBody_lac (n : Nat) (s : State) : (enterBody n s).lac = s.lac := rfl
@[simp] theorem enterBody_ts (n : Nat) (s : State) : (enterBody n s).ts = s.ts := rfl
@[simp] theorem enterBody_bp (n : Nat) (s : State) : (enterBody n s).bp = s.bp := rfl
@[simp] theorem enterBody_rq (n : Nat) (s : State) : (enterBody n s).rq = s.rq := rfl
@[simp] theorem enterBody_pt (n : Nat) (s : State) : (enterBody n s).pt = s.pt := rfl
@[simp] theorem enterBody_sc (n : Nat) (s : State) : (enterBody n s).sc = s.sc := rfl
@[simp] theorem enterBody_iu (n : Nat) (s : State) : (enterBody n s).iu = s.iu := rfl
@[simp] theorem enterBody_hp (n : Nat) (s : State) : (enterBody n s).hp = s.hp := rfl
@[simp] theorem enterBody_cfg (n : Nat) (s : State) : (enterBody n s).cfg = s.cfg := rfl
@[simp] theorem enterBody_ctr (n : Nat) (s : State) : (enterBody n s).ctr = s.ctr := rfl
@[simp] theorem enterBody_resetLow (n : Nat) (s : State) :
    (enterBody n s).resetLow = s.resetLow := rfl
@[simp] theorem enterBody_pending (n : Nat) (s : State) : (enterBody n s).pending = s.pending := rfl
@[simp] theorem enterBody_fr_groups (n : Nat) (s : State) :
    (enterBody n s).fr.groups = s.fr.groups := rfl
@[simp] theorem enterBody_fr_guard (n : Nat) (s : State) :
    (enterBody n s).fr.guard = s.fr.guard := rfl
@[simp] theorem enterBody_fr_record (n : Nat) (s : State) :
    (enterBody n s).fr.record = s.fr.record := rfl

/-! ### `afterEnding` -/

@[simp] theorem afterEnding_lac (h : Ending) (s : State) : (afterEnding h s).lac = s.lac := rfl
@[simp] theorem afterEnding_ts (h : Ending) (s : State) : (afterEnding h s).ts = s.ts := rfl
@[simp] theorem afterEnding_bp (h : Ending) (s : State) : (afterEnding h s).bp = s.bp := rfl
@[simp] theorem afterEnding_rq (h : Ending) (s : State) : (afterEnding h s).rq = s.rq := rfl
@[simp] theorem afterEnding_pt (h : Ending) (s : State) : (afterEnding h s).pt = s.pt := rfl
@[simp] theorem afterEnding_sc (h : Ending) (s : State) : (afterEnding h s).sc = s.sc := rfl
@[simp] theorem afterEnding_iu (h : Ending) (s : State) : (afterEnding h s).iu = s.iu := rfl
@[simp] theorem afterEnding_hp (h : Ending) (s : State) : (afterEnding h s).hp = s.hp := rfl
@[simp] theorem afterEnding_cfg (h : Ending) (s : State) : (afterEnding h s).cfg = s.cfg := rfl
@[simp] theorem afterEnding_ctr (h : Ending) (s : State) : (afterEnding h s).ctr = s.ctr := rfl
@[simp] theorem afterEnding_resetLow (h : Ending) (s : State) :
    (afterEnding h s).resetLow = s.resetLow := rfl
@[simp] theorem afterEnding_pending (h : Ending) (s : State) :
    (afterEnding h s).pending = s.pending := rfl
@[simp] theorem afterEnding_fr_groups (h : Ending) (s : State) :
    (afterEnding h s).fr.groups = s.fr.groups := rfl

/-! ### `tickTimers` -/

@[simp] theorem tickTimers_lac (s : State) : (tickTimers s).lac = s.lac := rfl
@[simp] theorem tickTimers_ts (s : State) : (tickTimers s).ts = s.ts := rfl
@[simp] theorem tickTimers_bp (s : State) : (tickTimers s).bp = s.bp := rfl
@[simp] theorem tickTimers_fr (s : State) : (tickTimers s).fr = s.fr := rfl
@[simp] theorem tickTimers_sc (s : State) : (tickTimers s).sc = s.sc := rfl
@[simp] theorem tickTimers_iu (s : State) : (tickTimers s).iu = s.iu := rfl
@[simp] theorem tickTimers_hp (s : State) : (tickTimers s).hp = s.hp := rfl
@[simp] theorem tickTimers_cfg (s : State) : (tickTimers s).cfg = s.cfg := rfl
@[simp] theorem tickTimers_ctr (s : State) : (tickTimers s).ctr = s.ctr := rfl
@[simp] theorem tickTimers_resetLow (s : State) : (tickTimers s).resetLow = s.resetLow := rfl
@[simp] theorem tickTimers_pending (s : State) : (tickTimers s).pending = s.pending := rfl
@[simp] theorem tickTimers_rq_entries (s : State) : (tickTimers s).rq.entries = s.rq.entries := rfl
@[simp] theorem tickTimers_rq_refused (s : State) : (tickTimers s).rq.refused = s.rq.refused := rfl
@[simp] theorem tickTimers_rq_overflow (s : State) :
    (tickTimers s).rq.overflow = s.rq.overflow := rfl
@[simp] theorem tickTimers_rq_paused (s : State) : (tickTimers s).rq.paused = s.rq.paused := rfl
@[simp] theorem tickTimers_rq_congested (s : State) :
    (tickTimers s).rq.congested = s.rq.congested := rfl
@[simp] theorem tickTimers_rq_notice (s : State) : (tickTimers s).rq.notice = s.rq.notice := rfl
@[simp] theorem tickTimers_rq_drop (s : State) : (tickTimers s).rq.drop = s.rq.drop := rfl
@[simp] theorem tickTimers_rq_loss (s : State) : (tickTimers s).rq.loss = s.rq.loss := rfl
@[simp] theorem tickTimers_rq_rxStale (s : State) : (tickTimers s).rq.rxStale = s.rq.rxStale := rfl

/-! ### `beginCharacter` -/

@[simp] theorem beginCharacter_ts (s : State) : (beginCharacter s).ts = s.ts := rfl
@[simp] theorem beginCharacter_bp (s : State) : (beginCharacter s).bp = s.bp := rfl
@[simp] theorem beginCharacter_rq (s : State) : (beginCharacter s).rq = s.rq := rfl
@[simp] theorem beginCharacter_pt (s : State) : (beginCharacter s).pt = s.pt := rfl
@[simp] theorem beginCharacter_sc (s : State) : (beginCharacter s).sc = s.sc := rfl
@[simp] theorem beginCharacter_iu (s : State) : (beginCharacter s).iu = s.iu := rfl
@[simp] theorem beginCharacter_hp (s : State) : (beginCharacter s).hp = s.hp := rfl
@[simp] theorem beginCharacter_cfg (s : State) : (beginCharacter s).cfg = s.cfg := rfl
@[simp] theorem beginCharacter_ctr (s : State) : (beginCharacter s).ctr = s.ctr := rfl
@[simp] theorem beginCharacter_resetLow (s : State) :
    (beginCharacter s).resetLow = s.resetLow := rfl
@[simp] theorem beginCharacter_pending (s : State) : (beginCharacter s).pending = s.pending := rfl
@[simp] theorem beginCharacter_lac_mode (s : State) :
    (beginCharacter s).lac.mode = s.lac.mode := rfl
@[simp] theorem beginCharacter_lac_demoted (s : State) :
    (beginCharacter s).lac.demoted = s.lac.demoted := rfl
@[simp] theorem beginCharacter_lac_faults (s : State) :
    (beginCharacter s).lac.faults = s.lac.faults := rfl
@[simp] theorem beginCharacter_lac_offer (s : State) :
    (beginCharacter s).lac.offer = s.lac.offer := rfl
@[simp] theorem beginCharacter_lac_order (s : State) :
    (beginCharacter s).lac.order = s.lac.order := rfl
@[simp] theorem beginCharacter_lac_window (s : State) :
    (beginCharacter s).lac.window = s.lac.window := rfl
@[simp] theorem beginCharacter_lac_burst (s : State) :
    (beginCharacter s).lac.burst = s.lac.burst := rfl
@[simp] theorem beginCharacter_lac_path (s : State) :
    (beginCharacter s).lac.path = s.lac.path := rfl
@[simp] theorem beginCharacter_fr_groups (s : State) :
    (beginCharacter s).fr.groups = s.fr.groups := rfl
@[simp] theorem beginCharacter_fr_mode (s : State) : (beginCharacter s).fr.mode = s.fr.mode := rfl
@[simp] theorem beginCharacter_fr_guard (s : State) :
    (beginCharacter s).fr.guard = s.fr.guard := rfl

/-! ### `enterRunning` -/

@[simp] theorem enterRunning_ts (t : Station) (s : State) : (enterRunning t s).ts = s.ts := rfl
@[simp] theorem enterRunning_bp (t : Station) (s : State) : (enterRunning t s).bp = s.bp := rfl
@[simp] theorem enterRunning_rq (t : Station) (s : State) : (enterRunning t s).rq = s.rq := rfl
@[simp] theorem enterRunning_pt (t : Station) (s : State) : (enterRunning t s).pt = s.pt := rfl
@[simp] theorem enterRunning_iu (t : Station) (s : State) : (enterRunning t s).iu = s.iu := rfl
@[simp] theorem enterRunning_hp (t : Station) (s : State) : (enterRunning t s).hp = s.hp := rfl
@[simp] theorem enterRunning_cfg (t : Station) (s : State) : (enterRunning t s).cfg = s.cfg := rfl
@[simp] theorem enterRunning_ctr (t : Station) (s : State) : (enterRunning t s).ctr = s.ctr := rfl
@[simp] theorem enterRunning_resetLow (t : Station) (s : State) :
    (enterRunning t s).resetLow = s.resetLow := rfl
@[simp] theorem enterRunning_pending (t : Station) (s : State) :
    (enterRunning t s).pending = s.pending := rfl
@[simp] theorem enterRunning_lac_demoted (t : Station) (s : State) :
    (enterRunning t s).lac.demoted = s.lac.demoted := rfl
@[simp] theorem enterRunning_lac_faults (t : Station) (s : State) :
    (enterRunning t s).lac.faults = s.lac.faults := rfl
@[simp] theorem enterRunning_lac_offer (t : Station) (s : State) :
    (enterRunning t s).lac.offer = s.lac.offer := rfl
@[simp] theorem enterRunning_lac_order (t : Station) (s : State) :
    (enterRunning t s).lac.order = s.lac.order := rfl
@[simp] theorem enterRunning_lac_window (t : Station) (s : State) :
    (enterRunning t s).lac.window = s.lac.window := rfl
@[simp] theorem enterRunning_lac_burst (t : Station) (s : State) :
    (enterRunning t s).lac.burst = s.lac.burst := rfl
@[simp] theorem enterRunning_lac_path (t : Station) (s : State) :
    (enterRunning t s).lac.path = s.lac.path := rfl
@[simp] theorem enterRunning_fr_groups (t : Station) (s : State) :
    (enterRunning t s).fr.groups = s.fr.groups := rfl
@[simp] theorem enterRunning_fr_record (t : Station) (s : State) :
    (enterRunning t s).fr.record = s.fr.record := rfl
@[simp] theorem enterRunning_sc_address (t : Station) (s : State) :
    (enterRunning t s).sc.address = s.sc.address := rfl
@[simp] theorem enterRunning_sc_faultEvent (t : Station) (s : State) :
    (enterRunning t s).sc.faultEvent = s.sc.faultEvent := rfl

/-! ### `clearBlocks` -/

@[simp] theorem clearBlocks_cfg (s : State) : (clearBlocks s).cfg = s.cfg := rfl
@[simp] theorem clearBlocks_ctr (s : State) : (clearBlocks s).ctr = s.ctr := rfl
@[simp] theorem clearBlocks_resetLow (s : State) : (clearBlocks s).resetLow = s.resetLow := rfl
@[simp] theorem clearBlocks_pending (s : State) : (clearBlocks s).pending = s.pending := rfl
@[simp] theorem clearBlocks_bp_mem (s : State) : (clearBlocks s).bp.mem = s.bp.mem := rfl
@[simp] theorem clearBlocks_fr_groups (s : State) : (clearBlocks s).fr.groups = s.fr.groups := rfl
@[simp] theorem clearBlocks_sc_address (s : State) :
    (clearBlocks s).sc.address = s.sc.address := rfl
@[simp] theorem clearBlocks_iu_inten (s : State) : (clearBlocks s).iu.inten = s.iu.inten := rfl
@[simp] theorem clearBlocks_hp_winSel (s : State) : (clearBlocks s).hp.winSel = s.hp.winSel := rfl
@[simp] theorem clearBlocks_hp_args (s : State) : (clearBlocks s).hp.args = s.hp.args := rfl
@[simp] theorem clearBlocks_hp_res (s : State) : (clearBlocks s).hp.res = s.hp.res := rfl
@[simp] theorem clearBlocks_hp_cst (s : State) : (clearBlocks s).hp.cst = s.hp.cst := rfl
@[simp] theorem clearBlocks_hp_cmd (s : State) : (clearBlocks s).hp.cmd = s.hp.cmd := rfl

/-! ### `stopLac` -/

@[simp] theorem stopLac_ts (a b : Station) (s : State) : (stopLac a b s).ts = s.ts := rfl
@[simp] theorem stopLac_bp (a b : Station) (s : State) : (stopLac a b s).bp = s.bp := rfl
@[simp] theorem stopLac_fr (a b : Station) (s : State) : (stopLac a b s).fr = s.fr := rfl
@[simp] theorem stopLac_rq (a b : Station) (s : State) : (stopLac a b s).rq = s.rq := rfl
@[simp] theorem stopLac_pt (a b : Station) (s : State) : (stopLac a b s).pt = s.pt := rfl
@[simp] theorem stopLac_sc (a b : Station) (s : State) : (stopLac a b s).sc = s.sc := rfl
@[simp] theorem stopLac_iu (a b : Station) (s : State) : (stopLac a b s).iu = s.iu := rfl
@[simp] theorem stopLac_hp (a b : Station) (s : State) : (stopLac a b s).hp = s.hp := rfl
@[simp] theorem stopLac_cfg (a b : Station) (s : State) : (stopLac a b s).cfg = s.cfg := rfl
@[simp] theorem stopLac_ctr (a b : Station) (s : State) : (stopLac a b s).ctr = s.ctr := rfl
@[simp] theorem stopLac_resetLow (a b : Station) (s : State) :
    (stopLac a b s).resetLow = s.resetLow := rfl
@[simp] theorem stopLac_pending (a b : Station) (s : State) :
    (stopLac a b s).pending = s.pending := rfl
@[simp] theorem stopLac_lac_faults (a b : Station) (s : State) :
    (stopLac a b s).lac.faults = s.lac.faults := rfl
@[simp] theorem stopLac_lac_offer (a b : Station) (s : State) :
    (stopLac a b s).lac.offer = s.lac.offer := rfl

/-! ### What the updates store -/

@[simp] theorem releaseChain_free (c : List Block) (s : State) :
    (releaseChain c s).bp.free = s.bp.free ++ c := rfl
@[simp] theorem claimBlocks_free (k : Nat) (s : State) :
    (claimBlocks k s).bp.free = s.bp.free.drop k := rfl
@[simp] theorem setSlot_slots (n : SlotId) (r : Option Slot) (s : State) :
    (setSlot n r s).ts.slots = s.ts.slots.set n r := rfl
@[simp] theorem enqueueTail_queues (c : Sys2Proof.Class) (n : SlotId) (s : State) :
    (enqueueTail c n s).ts.queues = s.ts.queues.set c (s.ts.queues.get c ++ [n]) := rfl
@[simp] theorem enqueueFront_queues (c : Sys2Proof.Class) (n : SlotId) (s : State) :
    (enqueueFront c n s).ts.queues = s.ts.queues.set c (n :: s.ts.queues.get c) := rfl
@[simp] theorem dequeue_queues (c : Sys2Proof.Class) (n : SlotId) (s : State) :
    (dequeue c n s).ts.queues = s.ts.queues.set c ((s.ts.queues.get c).filter fun m => m ≠ n) := rfl
@[simp] theorem withPeer_pt (a : Nat) (f : Peer → Peer) (s : State) :
    (withPeer a f s).pt = modifyPeer a f s.pt := rfl
@[simp] theorem countEvent_ctr (k : Counter) (s : State) : (countEvent k s).ctr = s.ctr.count k := rfl
@[simp] theorem setRecord_record (r : Rx) (s : State) : (setRecord r s).fr.record = some r := rfl
@[simp] theorem setStation_station (t : Station) (s : State) : (setStation t s).sc.station = t := rfl
@[simp] theorem answer_cst (c : Cst) (r : Quad) (s : State) : (answer c r s).hp.cst = c := rfl
@[simp] theorem answer_res (c : Cst) (r : Quad) (s : State) : (answer c r s).hp.res = r := rfl
@[simp] theorem recordCode_cmd (c : Byte) (s : State) : (recordCode c s).hp.cmd = c := rfl
@[simp] theorem drive_dataOut (v : Byte) (s : State) : (drive v s).hp.dataOut = v := rfl
@[simp] theorem stepWindow_winOfs (s : State) :
    (stepWindow s).hp.winOfs = min Config.maxLength (s.hp.winOfs + 1) := rfl
@[simp] theorem raiseWindowError_windowError (s : State) :
    (raiseWindowError s).hp.windowError = true := rfl
@[simp] theorem raiseConfigError_configError (s : State) :
    (raiseConfigError s).hp.configError = true := rfl
@[simp] theorem stopBurst_mode (m : LacMode) (s : State) : (stopBurst m s).lac.mode = m := rfl
@[simp] theorem stopBurst_burst (m : LacMode) (s : State) : (stopBurst m s).lac.burst = none := rfl
@[simp] theorem demote_demoted (c : Sys2Proof.Class) (s : State) :
    (demote c s).lac.demoted = s.lac.demoted.set c true := rfl
@[simp] theorem reachQuiet_quiet (n : Nat) (s : State) :
    (reachQuiet n s).lac.quiet = max s.lac.quiet n := rfl
@[simp] theorem otherDominant_quiet (s : State) : (otherDominant s).lac.quiet = 0 := rfl
@[simp] theorem otherDominant_order (s : State) : (otherDominant s).lac.order = none := rfl
@[simp] theorem orderResponse_order (k : ResponseKind) (v : Byte) (r : Rx) (s : State) :
    (orderResponse k v r s).lac.order =
      some { kind := k, reason := v, seq := r.seq, dest := r.src, createdAt := none } := rfl
@[simp] theorem stampCreated_order (b : Bool) (s : State) :
    (stampCreated b s).lac.order =
      s.lac.order.map fun o => { o with createdAt := if b then some s.lac.quiet else none } := rfl

/-! ### Slots, queues and classes -/

/-- A slot read after a slot was replaced. -/
@[simp] theorem slotAt_setSlot (n m : SlotId) (r : Option Slot) (s : State) :
    slotAt (setSlot n r s) m = if n = m then r else slotAt s m := by
  simp only [slotAt, setSlot]
  by_cases h : n = m
  · subst h; simp
  · have hv : (n : Nat) ≠ m := fun e => h (Fin.ext e)
    simp [h, hv]

/-- The slots are read from TS alone. -/
theorem slotAt_congr {s t : State} (h : t.ts.slots = s.ts.slots) (n : SlotId) :
    slotAt t n = slotAt s n := by
  simp only [slotAt, h]

/-- A class's value after a class's value was replaced. -/
@[simp] theorem PerClass.get_set {α : Type} (p : PerClass α) (c d : Sys2Proof.Class) (a : α) :
    (p.set c a).get d = if c = d then a else p.get d := by
  cases c <;> cases d <;> rfl

@[simp] theorem PerClass.get_all {α : Type} (a : α) (c : Sys2Proof.Class) :
    (PerClass.all a).get c = a := by
  cases c <;> rfl

@[simp] theorem PerClass.get_mapWith {α : Type} (f : Sys2Proof.Class → α → α) (p : PerClass α)
    (c : Sys2Proof.Class) : (p.mapWith f).get c = f c (p.get c) := by
  cases c <;> rfl

/-- A slot found in a state has that state. -/
theorem slotWhen_eq_some {s : State} {p : SlotPhase} {n : SlotId} {sl : Slot} :
    slotWhen s p n = some sl ↔ slotAt s n = some sl ∧ sl.phase = p := by
  simp [slotWhen, Option.filter_eq_some_iff]

/-- A counter never falls when it counts. -/
theorem bump_le (w : Word) : w.toNat ≤ (bump w).toNat := by
  unfold bump
  split
  · exact Nat.le_refl _
  · next h =>
    have h1 : w.toNat ≠ 65535 := fun e => h (BitVec.eq_of_toNat_eq (by simpa using e))
    have h2 := w.isLt
    have h3 : (1 : Word).toNat = 1 := rfl
    rw [BitVec.toNat_add, h3]
    omega

end Sys2Proof.Machine
end

