-- ==== Sys2Proof/Laws/Frames.lean ====
section
/-! SUPPORT. What each shared operation leaves alone, in the order of the definitions: the blocks, and of a block
that it changes in part, the fields that it keeps. -/

namespace Sys2Proof.Machine

open Sys2Proof

@[simp] theorem followHead_keeps (s : State) :
    (followHead s).lac = s.lac ∧ (followHead s).ts = s.ts ∧ (followHead s).bp = s.bp ∧
    (followHead s).fr = s.fr ∧ (followHead s).rq = s.rq ∧ (followHead s).pt = s.pt ∧
    (followHead s).sc = s.sc ∧ (followHead s).iu = s.iu ∧ (followHead s).cfg = s.cfg ∧
    (followHead s).ctr = s.ctr ∧ (followHead s).resetLow = s.resetLow ∧
    (followHead s).pending = s.pending ∧ (followHead s).hp.args = s.hp.args ∧
    (followHead s).hp.res = s.hp.res ∧ (followHead s).hp.cst = s.hp.cst ∧
    (followHead s).hp.cmd = s.hp.cmd ∧ (followHead s).hp.winSel = s.hp.winSel := by
  simp only [followHead]
  (repeat' split) <;> simp

@[simp] theorem refuseSource_keeps (a : Nat) (s : State) :
    (refuseSource a s).lac = s.lac ∧ (refuseSource a s).ts = s.ts ∧ (refuseSource a s).bp = s.bp ∧
    (refuseSource a s).fr = s.fr ∧ (refuseSource a s).pt = s.pt ∧ (refuseSource a s).sc = s.sc ∧
    (refuseSource a s).iu = s.iu ∧ (refuseSource a s).hp = s.hp ∧ (refuseSource a s).cfg = s.cfg ∧
    (refuseSource a s).ctr = s.ctr ∧ (refuseSource a s).resetLow = s.resetLow ∧
    (refuseSource a s).pending = s.pending ∧ (refuseSource a s).rq.entries = s.rq.entries ∧
    (refuseSource a s).rq.paused = s.rq.paused ∧ (refuseSource a s).rq.congested = s.rq.congested ∧
    (refuseSource a s).rq.notice = s.rq.notice ∧ (refuseSource a s).rq.drop = s.rq.drop ∧
    (refuseSource a s).rq.loss = s.rq.loss ∧ (refuseSource a s).rq.stale = s.rq.stale ∧
    (refuseSource a s).rq.rxStale = s.rq.rxStale := by
  simp only [refuseSource]
  (repeat' split) <;> simp

@[simp] theorem clearActive_keeps (sl : Slot) (s : State) :
    (clearActive sl s).lac = s.lac ∧ (clearActive sl s).ts = s.ts ∧ (clearActive sl s).bp = s.bp ∧
    (clearActive sl s).fr = s.fr ∧ (clearActive sl s).rq = s.rq ∧ (clearActive sl s).sc = s.sc ∧
    (clearActive sl s).iu = s.iu ∧ (clearActive sl s).hp = s.hp ∧ (clearActive sl s).cfg = s.cfg ∧
    (clearActive sl s).ctr = s.ctr ∧ (clearActive sl s).resetLow = s.resetLow ∧
    (clearActive sl s).pending = s.pending := by
  simp only [clearActive]
  (repeat' split) <;> simp

@[simp] theorem withdrawOffer_keeps (s : State) :
    (withdrawOffer s).bp = s.bp ∧ (withdrawOffer s).fr = s.fr ∧ (withdrawOffer s).rq = s.rq ∧
    (withdrawOffer s).sc = s.sc ∧ (withdrawOffer s).iu = s.iu ∧ (withdrawOffer s).hp = s.hp ∧
    (withdrawOffer s).cfg = s.cfg ∧ (withdrawOffer s).ctr = s.ctr ∧
    (withdrawOffer s).resetLow = s.resetLow ∧ (withdrawOffer s).pending = s.pending ∧
    (withdrawOffer s).lac.mode = s.lac.mode ∧ (withdrawOffer s).lac.quiet = s.lac.quiet ∧
    (withdrawOffer s).lac.demoted = s.lac.demoted ∧ (withdrawOffer s).lac.faults = s.lac.faults ∧
    (withdrawOffer s).lac.order = s.lac.order ∧ (withdrawOffer s).lac.window = s.lac.window ∧
    (withdrawOffer s).lac.burst = s.lac.burst ∧ (withdrawOffer s).lac.path = s.lac.path ∧
    (withdrawOffer s).ts.queues = s.ts.queues ∧ (withdrawOffer s).ts.completion = s.ts.completion := by
  simp only [withdrawOffer]
  (repeat' split) <;> simp

@[simp] theorem preparePeer_keeps (o : Offer) (s : State) :
    (preparePeer o s).lac = s.lac ∧ (preparePeer o s).ts = s.ts ∧ (preparePeer o s).bp = s.bp ∧
    (preparePeer o s).fr = s.fr ∧ (preparePeer o s).rq = s.rq ∧ (preparePeer o s).sc = s.sc ∧
    (preparePeer o s).iu = s.iu ∧ (preparePeer o s).hp = s.hp ∧ (preparePeer o s).cfg = s.cfg ∧
    (preparePeer o s).ctr = s.ctr ∧ (preparePeer o s).resetLow = s.resetLow ∧
    (preparePeer o s).pending = s.pending := by
  simp only [preparePeer]
  (repeat' split) <;> simp

@[simp] theorem installOffer_keeps (o : Offer) (s : State) :
    (installOffer o s).bp = s.bp ∧ (installOffer o s).fr = s.fr ∧ (installOffer o s).rq = s.rq ∧
    (installOffer o s).sc = s.sc ∧ (installOffer o s).iu = s.iu ∧ (installOffer o s).hp = s.hp ∧
    (installOffer o s).cfg = s.cfg ∧ (installOffer o s).ctr = s.ctr ∧
    (installOffer o s).resetLow = s.resetLow ∧ (installOffer o s).pending = s.pending ∧
    (installOffer o s).lac.mode = s.lac.mode ∧ (installOffer o s).lac.quiet = s.lac.quiet ∧
    (installOffer o s).lac.demoted = s.lac.demoted ∧ (installOffer o s).lac.faults = s.lac.faults ∧
    (installOffer o s).lac.order = s.lac.order ∧ (installOffer o s).lac.window = s.lac.window ∧
    (installOffer o s).lac.burst = s.lac.burst ∧ (installOffer o s).lac.path = s.lac.path ∧
    (installOffer o s).ts.queues = s.ts.queues ∧ (installOffer o s).ts.completion = s.ts.completion := by
  simp only [installOffer]
  (repeat' split) <;> simp

@[simp] theorem presentOffer_keeps (o : Offer) (s : State) :
    (presentOffer o s).bp = s.bp ∧ (presentOffer o s).fr = s.fr ∧ (presentOffer o s).rq = s.rq ∧
    (presentOffer o s).sc = s.sc ∧ (presentOffer o s).iu = s.iu ∧ (presentOffer o s).hp = s.hp ∧
    (presentOffer o s).cfg = s.cfg ∧ (presentOffer o s).ctr = s.ctr ∧
    (presentOffer o s).resetLow = s.resetLow ∧ (presentOffer o s).pending = s.pending ∧
    (presentOffer o s).lac.mode = s.lac.mode ∧ (presentOffer o s).lac.quiet = s.lac.quiet ∧
    (presentOffer o s).lac.demoted = s.lac.demoted ∧ (presentOffer o s).lac.faults = s.lac.faults ∧
    (presentOffer o s).lac.order = s.lac.order ∧ (presentOffer o s).lac.window = s.lac.window ∧
    (presentOffer o s).lac.burst = s.lac.burst ∧ (presentOffer o s).lac.path = s.lac.path ∧
    (presentOffer o s).ts.queues = s.ts.queues ∧ (presentOffer o s).ts.completion = s.ts.completion := by
  simp [presentOffer]

@[simp] theorem reevaluate_keeps (s : State) :
    (reevaluate s).bp = s.bp ∧ (reevaluate s).fr = s.fr ∧ (reevaluate s).rq = s.rq ∧
    (reevaluate s).sc = s.sc ∧ (reevaluate s).iu = s.iu ∧ (reevaluate s).hp = s.hp ∧
    (reevaluate s).cfg = s.cfg ∧ (reevaluate s).ctr = s.ctr ∧
    (reevaluate s).resetLow = s.resetLow ∧ (reevaluate s).pending = s.pending ∧
    (reevaluate s).lac.mode = s.lac.mode ∧ (reevaluate s).lac.quiet = s.lac.quiet ∧
    (reevaluate s).lac.demoted = s.lac.demoted ∧ (reevaluate s).lac.faults = s.lac.faults ∧
    (reevaluate s).lac.order = s.lac.order ∧ (reevaluate s).lac.window = s.lac.window ∧
    (reevaluate s).lac.burst = s.lac.burst ∧ (reevaluate s).lac.path = s.lac.path ∧
    (reevaluate s).ts.queues = s.ts.queues ∧ (reevaluate s).ts.completion = s.ts.completion := by
  simp only [reevaluate]
  (repeat' split) <;> simp

@[simp] theorem reportEnd_keeps (o : SlotOutcome) (sl : Slot) (s : State) :
    (reportEnd o sl s).lac = s.lac ∧ (reportEnd o sl s).ts = s.ts ∧ (reportEnd o sl s).bp = s.bp ∧
    (reportEnd o sl s).fr = s.fr ∧ (reportEnd o sl s).rq = s.rq ∧ (reportEnd o sl s).sc = s.sc ∧
    (reportEnd o sl s).iu = s.iu ∧ (reportEnd o sl s).hp = s.hp ∧ (reportEnd o sl s).cfg = s.cfg ∧
    (reportEnd o sl s).ctr = s.ctr ∧ (reportEnd o sl s).resetLow = s.resetLow ∧
    (reportEnd o sl s).pending = s.pending := by
  simp only [reportEnd]
  (repeat' split) <;> simp

@[simp] theorem completeSlot_keeps (n : SlotId) (o : SlotOutcome) (sl : Slot) (s : State) :
    (completeSlot n o sl s).lac = s.lac ∧ (completeSlot n o sl s).fr = s.fr ∧
    (completeSlot n o sl s).rq = s.rq ∧ (completeSlot n o sl s).sc = s.sc ∧
    (completeSlot n o sl s).iu = s.iu ∧ (completeSlot n o sl s).hp = s.hp ∧
    (completeSlot n o sl s).cfg = s.cfg ∧ (completeSlot n o sl s).ctr = s.ctr ∧
    (completeSlot n o sl s).resetLow = s.resetLow ∧ (completeSlot n o sl s).pending = s.pending ∧
    (completeSlot n o sl s).ts.queues = s.ts.queues ∧ (completeSlot n o sl s).bp.mem = s.bp.mem := by
  simp [completeSlot]

@[simp] theorem requeueFront_keeps (n : SlotId) (sl : Slot) (s : State) :
    (requeueFront n sl s).lac = s.lac ∧ (requeueFront n sl s).bp = s.bp ∧
    (requeueFront n sl s).fr = s.fr ∧ (requeueFront n sl s).rq = s.rq ∧
    (requeueFront n sl s).sc = s.sc ∧ (requeueFront n sl s).iu = s.iu ∧
    (requeueFront n sl s).hp = s.hp ∧ (requeueFront n sl s).cfg = s.cfg ∧
    (requeueFront n sl s).ctr = s.ctr ∧ (requeueFront n sl s).resetLow = s.resetLow ∧
    (requeueFront n sl s).pending = s.pending ∧
    (requeueFront n sl s).ts.completion = s.ts.completion := by
  simp [requeueFront]

@[simp] theorem failOrRetry_keeps (n : SlotId) (sl : Slot) (s : State) :
    (failOrRetry n sl s).lac = s.lac ∧ (failOrRetry n sl s).fr = s.fr ∧
    (failOrRetry n sl s).rq = s.rq ∧ (failOrRetry n sl s).sc = s.sc ∧
    (failOrRetry n sl s).iu = s.iu ∧ (failOrRetry n sl s).hp = s.hp ∧
    (failOrRetry n sl s).cfg = s.cfg ∧ (failOrRetry n sl s).ctr = s.ctr ∧
    (failOrRetry n sl s).resetLow = s.resetLow ∧ (failOrRetry n sl s).pending = s.pending ∧
    (failOrRetry n sl s).bp.mem = s.bp.mem := by
  simp only [failOrRetry]
  (repeat' split) <;> simp

@[simp] theorem endUnanswered_keeps (n : SlotId) (s : State) :
    (endUnanswered n s).lac = s.lac ∧ (endUnanswered n s).fr = s.fr ∧
    (endUnanswered n s).rq = s.rq ∧ (endUnanswered n s).sc = s.sc ∧ (endUnanswered n s).iu = s.iu ∧
    (endUnanswered n s).hp = s.hp ∧ (endUnanswered n s).cfg = s.cfg ∧
    (endUnanswered n s).ctr = s.ctr ∧ (endUnanswered n s).resetLow = s.resetLow ∧
    (endUnanswered n s).pending = s.pending ∧ (endUnanswered n s).bp.mem = s.bp.mem := by
  simp only [endUnanswered]
  (repeat' split) <;> simp

@[simp] theorem takeNoResponse_keeps (n : SlotId) (s : State) :
    (takeNoResponse n s).fr = s.fr ∧ (takeNoResponse n s).rq = s.rq ∧
    (takeNoResponse n s).sc = s.sc ∧ (takeNoResponse n s).iu = s.iu ∧
    (takeNoResponse n s).hp = s.hp ∧ (takeNoResponse n s).cfg = s.cfg ∧
    (takeNoResponse n s).ctr = s.ctr ∧ (takeNoResponse n s).resetLow = s.resetLow ∧
    (takeNoResponse n s).pending = s.pending ∧ (takeNoResponse n s).lac.mode = s.lac.mode ∧
    (takeNoResponse n s).lac.quiet = s.lac.quiet ∧
    (takeNoResponse n s).lac.demoted = s.lac.demoted ∧
    (takeNoResponse n s).lac.faults = s.lac.faults ∧ (takeNoResponse n s).lac.order = s.lac.order ∧
    (takeNoResponse n s).lac.window = s.lac.window ∧ (takeNoResponse n s).lac.burst = s.lac.burst ∧
    (takeNoResponse n s).lac.path = s.lac.path ∧ (takeNoResponse n s).bp.mem = s.bp.mem := by
  simp [takeNoResponse]

@[simp] theorem takeAck_keeps (n : SlotId) (s : State) :
    (takeAck n s).fr = s.fr ∧ (takeAck n s).rq = s.rq ∧ (takeAck n s).sc = s.sc ∧
    (takeAck n s).iu = s.iu ∧ (takeAck n s).hp = s.hp ∧ (takeAck n s).cfg = s.cfg ∧
    (takeAck n s).ctr = s.ctr ∧ (takeAck n s).resetLow = s.resetLow ∧
    (takeAck n s).pending = s.pending ∧ (takeAck n s).lac.mode = s.lac.mode ∧
    (takeAck n s).lac.quiet = s.lac.quiet ∧ (takeAck n s).lac.demoted = s.lac.demoted ∧
    (takeAck n s).lac.faults = s.lac.faults ∧ (takeAck n s).lac.order = s.lac.order ∧
    (takeAck n s).lac.window = s.lac.window ∧ (takeAck n s).lac.burst = s.lac.burst ∧
    (takeAck n s).lac.path = s.lac.path ∧ (takeAck n s).bp.mem = s.bp.mem := by
  simp only [takeAck]
  (repeat' split) <;> simp

@[simp] theorem takeBusy_keeps (n : SlotId) (v : Byte) (s : State) :
    (takeBusy n v s).fr = s.fr ∧ (takeBusy n v s).rq = s.rq ∧ (takeBusy n v s).sc = s.sc ∧
    (takeBusy n v s).hp = s.hp ∧ (takeBusy n v s).cfg = s.cfg ∧ (takeBusy n v s).ctr = s.ctr ∧
    (takeBusy n v s).resetLow = s.resetLow ∧ (takeBusy n v s).pending = s.pending ∧
    (takeBusy n v s).lac.mode = s.lac.mode ∧ (takeBusy n v s).lac.quiet = s.lac.quiet ∧
    (takeBusy n v s).lac.demoted = s.lac.demoted ∧ (takeBusy n v s).lac.faults = s.lac.faults ∧
    (takeBusy n v s).lac.order = s.lac.order ∧ (takeBusy n v s).lac.window = s.lac.window ∧
    (takeBusy n v s).lac.burst = s.lac.burst ∧ (takeBusy n v s).lac.path = s.lac.path ∧
    (takeBusy n v s).bp.mem = s.bp.mem ∧ (takeBusy n v s).iu.inten = s.iu.inten := by
  simp only [takeBusy]
  (repeat' split) <;> simp

@[simp] theorem endEchoFault_keeps (n : SlotId) (s : State) :
    (endEchoFault n s).lac = s.lac ∧ (endEchoFault n s).fr = s.fr ∧ (endEchoFault n s).rq = s.rq ∧
    (endEchoFault n s).sc = s.sc ∧ (endEchoFault n s).iu = s.iu ∧ (endEchoFault n s).hp = s.hp ∧
    (endEchoFault n s).cfg = s.cfg ∧ (endEchoFault n s).ctr = s.ctr ∧
    (endEchoFault n s).resetLow = s.resetLow ∧ (endEchoFault n s).pending = s.pending ∧
    (endEchoFault n s).bp.mem = s.bp.mem := by
  simp only [endEchoFault]
  (repeat' split) <;> simp

@[simp] theorem endCut_keeps (n : SlotId) (s : State) :
    (endCut n s).lac = s.lac ∧ (endCut n s).bp = s.bp ∧ (endCut n s).fr = s.fr ∧
    (endCut n s).rq = s.rq ∧ (endCut n s).sc = s.sc ∧ (endCut n s).iu = s.iu ∧
    (endCut n s).hp = s.hp ∧ (endCut n s).cfg = s.cfg ∧ (endCut n s).ctr = s.ctr ∧
    (endCut n s).resetLow = s.resetLow ∧ (endCut n s).pending = s.pending ∧
    (endCut n s).ts.completion = s.ts.completion := by
  simp only [endCut]
  (repeat' split) <;> simp

@[simp] theorem endAborted_keeps (n : SlotId) (s : State) :
    (endAborted n s).lac = s.lac ∧ (endAborted n s).fr = s.fr ∧ (endAborted n s).rq = s.rq ∧
    (endAborted n s).sc = s.sc ∧ (endAborted n s).iu = s.iu ∧ (endAborted n s).hp = s.hp ∧
    (endAborted n s).cfg = s.cfg ∧ (endAborted n s).ctr = s.ctr ∧
    (endAborted n s).resetLow = s.resetLow ∧ (endAborted n s).pending = s.pending ∧
    (endAborted n s).bp.mem = s.bp.mem ∧ (endAborted n s).ts.queues = s.ts.queues := by
  simp only [endAborted]
  (repeat' split) <;> simp

@[simp] theorem releasePeer_keeps (a : Nat) (s : State) :
    (releasePeer a s).bp = s.bp ∧ (releasePeer a s).fr = s.fr ∧ (releasePeer a s).rq = s.rq ∧
    (releasePeer a s).sc = s.sc ∧ (releasePeer a s).hp = s.hp ∧ (releasePeer a s).cfg = s.cfg ∧
    (releasePeer a s).ctr = s.ctr ∧ (releasePeer a s).resetLow = s.resetLow ∧
    (releasePeer a s).pending = s.pending ∧ (releasePeer a s).lac.mode = s.lac.mode ∧
    (releasePeer a s).lac.quiet = s.lac.quiet ∧ (releasePeer a s).lac.demoted = s.lac.demoted ∧
    (releasePeer a s).lac.faults = s.lac.faults ∧ (releasePeer a s).lac.order = s.lac.order ∧
    (releasePeer a s).lac.window = s.lac.window ∧ (releasePeer a s).lac.burst = s.lac.burst ∧
    (releasePeer a s).lac.path = s.lac.path ∧ (releasePeer a s).ts.queues = s.ts.queues ∧
    (releasePeer a s).ts.completion = s.ts.completion ∧ (releasePeer a s).iu.inten = s.iu.inten := by
  simp [releasePeer]

@[simp] theorem buildNotice_keeps (s : State) :
    (buildNotice s).bp = s.bp ∧ (buildNotice s).fr = s.fr ∧ (buildNotice s).sc = s.sc ∧
    (buildNotice s).iu = s.iu ∧ (buildNotice s).hp = s.hp ∧ (buildNotice s).cfg = s.cfg ∧
    (buildNotice s).ctr = s.ctr ∧ (buildNotice s).resetLow = s.resetLow ∧
    (buildNotice s).pending = s.pending ∧ (buildNotice s).lac.mode = s.lac.mode ∧
    (buildNotice s).lac.quiet = s.lac.quiet ∧ (buildNotice s).lac.demoted = s.lac.demoted ∧
    (buildNotice s).lac.faults = s.lac.faults ∧ (buildNotice s).lac.order = s.lac.order ∧
    (buildNotice s).lac.window = s.lac.window ∧ (buildNotice s).lac.burst = s.lac.burst ∧
    (buildNotice s).lac.path = s.lac.path ∧ (buildNotice s).ts.queues = s.ts.queues ∧
    (buildNotice s).ts.completion = s.ts.completion ∧ (buildNotice s).rq.entries = s.rq.entries ∧
    (buildNotice s).rq.paused = s.rq.paused ∧ (buildNotice s).rq.congested = s.rq.congested ∧
    (buildNotice s).rq.drop = s.rq.drop ∧ (buildNotice s).rq.loss = s.rq.loss ∧
    (buildNotice s).rq.stale = s.rq.stale ∧ (buildNotice s).rq.rxStale = s.rq.rxStale := by
  simp only [buildNotice]
  (repeat' split) <;> simp

@[simp] theorem leaveCongestion_keeps (s : State) :
    (leaveCongestion s).bp = s.bp ∧ (leaveCongestion s).fr = s.fr ∧ (leaveCongestion s).sc = s.sc ∧
    (leaveCongestion s).hp = s.hp ∧ (leaveCongestion s).cfg = s.cfg ∧
    (leaveCongestion s).ctr = s.ctr ∧ (leaveCongestion s).resetLow = s.resetLow ∧
    (leaveCongestion s).pending = s.pending ∧ (leaveCongestion s).lac.mode = s.lac.mode ∧
    (leaveCongestion s).lac.quiet = s.lac.quiet ∧ (leaveCongestion s).lac.demoted = s.lac.demoted ∧
    (leaveCongestion s).lac.faults = s.lac.faults ∧ (leaveCongestion s).lac.order = s.lac.order ∧
    (leaveCongestion s).lac.window = s.lac.window ∧ (leaveCongestion s).lac.burst = s.lac.burst ∧
    (leaveCongestion s).lac.path = s.lac.path ∧ (leaveCongestion s).ts.queues = s.ts.queues ∧
    (leaveCongestion s).ts.completion = s.ts.completion ∧
    (leaveCongestion s).rq.entries = s.rq.entries ∧ (leaveCongestion s).rq.paused = s.rq.paused ∧
    (leaveCongestion s).rq.drop = s.rq.drop ∧ (leaveCongestion s).rq.loss = s.rq.loss ∧
    (leaveCongestion s).rq.stale = s.rq.stale ∧ (leaveCongestion s).rq.rxStale = s.rq.rxStale ∧
    (leaveCongestion s).iu.inten = s.iu.inten := by
  simp only [leaveCongestion]
  (repeat' split) <;> simp

@[simp] theorem testEntry_keeps (s : State) :
    (testEntry s).lac = s.lac ∧ (testEntry s).ts = s.ts ∧ (testEntry s).bp = s.bp ∧
    (testEntry s).fr = s.fr ∧ (testEntry s).pt = s.pt ∧ (testEntry s).sc = s.sc ∧
    (testEntry s).hp = s.hp ∧ (testEntry s).cfg = s.cfg ∧ (testEntry s).ctr = s.ctr ∧
    (testEntry s).resetLow = s.resetLow ∧ (testEntry s).pending = s.pending ∧
    (testEntry s).rq.entries = s.rq.entries ∧ (testEntry s).rq.paused = s.rq.paused ∧
    (testEntry s).rq.refused = s.rq.refused ∧ (testEntry s).rq.overflow = s.rq.overflow ∧
    (testEntry s).rq.notice = s.rq.notice ∧ (testEntry s).rq.drop = s.rq.drop ∧
    (testEntry s).rq.loss = s.rq.loss ∧ (testEntry s).rq.stale = s.rq.stale ∧
    (testEntry s).rq.rxStale = s.rq.rxStale ∧ (testEntry s).iu.inten = s.iu.inten := by
  simp only [testEntry]
  (repeat' split) <;> simp

@[simp] theorem testExit_keeps (s : State) :
    (testExit s).bp = s.bp ∧ (testExit s).fr = s.fr ∧ (testExit s).sc = s.sc ∧
    (testExit s).hp = s.hp ∧ (testExit s).cfg = s.cfg ∧ (testExit s).ctr = s.ctr ∧
    (testExit s).resetLow = s.resetLow ∧ (testExit s).pending = s.pending ∧
    (testExit s).lac.mode = s.lac.mode ∧ (testExit s).lac.quiet = s.lac.quiet ∧
    (testExit s).lac.demoted = s.lac.demoted ∧ (testExit s).lac.faults = s.lac.faults ∧
    (testExit s).lac.order = s.lac.order ∧ (testExit s).lac.window = s.lac.window ∧
    (testExit s).lac.burst = s.lac.burst ∧ (testExit s).lac.path = s.lac.path ∧
    (testExit s).ts.queues = s.ts.queues ∧ (testExit s).ts.completion = s.ts.completion ∧
    (testExit s).rq.entries = s.rq.entries ∧ (testExit s).rq.paused = s.rq.paused ∧
    (testExit s).rq.drop = s.rq.drop ∧ (testExit s).rq.loss = s.rq.loss ∧
    (testExit s).rq.stale = s.rq.stale ∧ (testExit s).rq.rxStale = s.rq.rxStale ∧
    (testExit s).iu.inten = s.iu.inten := by
  simp only [testExit]
  (repeat' split) <;> simp

@[simp] theorem testMarks_keeps (s : State) :
    (testMarks s).bp = s.bp ∧ (testMarks s).fr = s.fr ∧ (testMarks s).sc = s.sc ∧
    (testMarks s).hp = s.hp ∧ (testMarks s).cfg = s.cfg ∧ (testMarks s).ctr = s.ctr ∧
    (testMarks s).resetLow = s.resetLow ∧ (testMarks s).pending = s.pending ∧
    (testMarks s).lac.mode = s.lac.mode ∧ (testMarks s).lac.quiet = s.lac.quiet ∧
    (testMarks s).lac.demoted = s.lac.demoted ∧ (testMarks s).lac.faults = s.lac.faults ∧
    (testMarks s).lac.order = s.lac.order ∧ (testMarks s).lac.window = s.lac.window ∧
    (testMarks s).lac.burst = s.lac.burst ∧ (testMarks s).lac.path = s.lac.path ∧
    (testMarks s).ts.queues = s.ts.queues ∧ (testMarks s).ts.completion = s.ts.completion ∧
    (testMarks s).rq.entries = s.rq.entries ∧ (testMarks s).rq.paused = s.rq.paused ∧
    (testMarks s).rq.drop = s.rq.drop ∧ (testMarks s).rq.loss = s.rq.loss ∧
    (testMarks s).rq.stale = s.rq.stale ∧ (testMarks s).rq.rxStale = s.rq.rxStale ∧
    (testMarks s).iu.inten = s.iu.inten := by
  simp only [testMarks]
  (repeat' split) <;> simp

@[simp] theorem appendEntry_keeps (e : Entry) (s : State) :
    (appendEntry e s).lac = s.lac ∧ (appendEntry e s).ts = s.ts ∧ (appendEntry e s).bp = s.bp ∧
    (appendEntry e s).fr = s.fr ∧ (appendEntry e s).pt = s.pt ∧ (appendEntry e s).sc = s.sc ∧
    (appendEntry e s).cfg = s.cfg ∧ (appendEntry e s).ctr = s.ctr ∧
    (appendEntry e s).resetLow = s.resetLow ∧ (appendEntry e s).pending = s.pending ∧
    (appendEntry e s).rq.paused = s.rq.paused ∧ (appendEntry e s).rq.refused = s.rq.refused ∧
    (appendEntry e s).rq.overflow = s.rq.overflow ∧ (appendEntry e s).rq.notice = s.rq.notice ∧
    (appendEntry e s).rq.drop = s.rq.drop ∧ (appendEntry e s).iu.inten = s.iu.inten ∧
    (appendEntry e s).hp.args = s.hp.args ∧ (appendEntry e s).hp.res = s.hp.res ∧
    (appendEntry e s).hp.cst = s.hp.cst ∧ (appendEntry e s).hp.cmd = s.hp.cmd ∧
    (appendEntry e s).hp.winSel = s.hp.winSel := by
  simp only [appendEntry]
  (repeat' split) <;> simp

@[simp] theorem abandonReception_keeps (s : State) :
    (abandonReception s).lac = s.lac ∧ (abandonReception s).ts = s.ts ∧
    (abandonReception s).rq = s.rq ∧ (abandonReception s).pt = s.pt ∧
    (abandonReception s).sc = s.sc ∧ (abandonReception s).iu = s.iu ∧
    (abandonReception s).hp = s.hp ∧ (abandonReception s).cfg = s.cfg ∧
    (abandonReception s).ctr = s.ctr ∧ (abandonReception s).resetLow = s.resetLow ∧
    (abandonReception s).pending = s.pending ∧ (abandonReception s).bp.mem = s.bp.mem ∧
    (abandonReception s).fr.groups = s.fr.groups ∧ (abandonReception s).fr.mode = s.fr.mode ∧
    (abandonReception s).fr.guard = s.fr.guard := by
  simp only [abandonReception]
  (repeat' split) <;> simp

@[simp] theorem enterRecover_keeps (s : State) :
    (enterRecover s).lac = s.lac ∧ (enterRecover s).ts = s.ts ∧ (enterRecover s).rq = s.rq ∧
    (enterRecover s).pt = s.pt ∧ (enterRecover s).sc = s.sc ∧ (enterRecover s).iu = s.iu ∧
    (enterRecover s).hp = s.hp ∧ (enterRecover s).cfg = s.cfg ∧ (enterRecover s).ctr = s.ctr ∧
    (enterRecover s).resetLow = s.resetLow ∧ (enterRecover s).pending = s.pending ∧
    (enterRecover s).bp.mem = s.bp.mem ∧ (enterRecover s).fr.groups = s.fr.groups := by
  simp [enterRecover]

@[simp] theorem failCandidate_keeps (s : State) :
    (failCandidate s).fr = s.fr ∧ (failCandidate s).rq = s.rq ∧ (failCandidate s).sc = s.sc ∧
    (failCandidate s).iu = s.iu ∧ (failCandidate s).hp = s.hp ∧ (failCandidate s).cfg = s.cfg ∧
    (failCandidate s).ctr = s.ctr ∧ (failCandidate s).resetLow = s.resetLow ∧
    (failCandidate s).pending = s.pending ∧ (failCandidate s).lac.mode = s.lac.mode ∧
    (failCandidate s).lac.quiet = s.lac.quiet ∧ (failCandidate s).lac.demoted = s.lac.demoted ∧
    (failCandidate s).lac.faults = s.lac.faults ∧ (failCandidate s).lac.order = s.lac.order ∧
    (failCandidate s).lac.window = s.lac.window ∧ (failCandidate s).lac.burst = s.lac.burst ∧
    (failCandidate s).lac.path = s.lac.path ∧ (failCandidate s).bp.mem = s.bp.mem := by
  simp only [failCandidate]
  (repeat' split) <;> simp

@[simp] theorem judgeCandidate_keeps (r : Rx) (s : State) :
    (judgeCandidate r s).fr = s.fr ∧ (judgeCandidate r s).rq = s.rq ∧
    (judgeCandidate r s).sc = s.sc ∧ (judgeCandidate r s).hp = s.hp ∧
    (judgeCandidate r s).cfg = s.cfg ∧ (judgeCandidate r s).ctr = s.ctr ∧
    (judgeCandidate r s).resetLow = s.resetLow ∧ (judgeCandidate r s).pending = s.pending ∧
    (judgeCandidate r s).lac.mode = s.lac.mode ∧ (judgeCandidate r s).lac.quiet = s.lac.quiet ∧
    (judgeCandidate r s).lac.demoted = s.lac.demoted ∧
    (judgeCandidate r s).lac.faults = s.lac.faults ∧ (judgeCandidate r s).lac.order = s.lac.order ∧
    (judgeCandidate r s).lac.window = s.lac.window ∧ (judgeCandidate r s).lac.burst = s.lac.burst ∧
    (judgeCandidate r s).lac.path = s.lac.path ∧ (judgeCandidate r s).bp.mem = s.bp.mem ∧
    (judgeCandidate r s).iu.inten = s.iu.inten := by
  simp only [judgeCandidate]
  (repeat' split) <;> simp

@[simp] theorem reportCandidate_keeps (h : Ending) (r : Rx) (s : State) :
    (reportCandidate h r s).fr = s.fr ∧ (reportCandidate h r s).rq = s.rq ∧
    (reportCandidate h r s).sc = s.sc ∧ (reportCandidate h r s).hp = s.hp ∧
    (reportCandidate h r s).cfg = s.cfg ∧ (reportCandidate h r s).ctr = s.ctr ∧
    (reportCandidate h r s).resetLow = s.resetLow ∧ (reportCandidate h r s).pending = s.pending ∧
    (reportCandidate h r s).lac.mode = s.lac.mode ∧
    (reportCandidate h r s).lac.quiet = s.lac.quiet ∧
    (reportCandidate h r s).lac.demoted = s.lac.demoted ∧
    (reportCandidate h r s).lac.faults = s.lac.faults ∧
    (reportCandidate h r s).lac.order = s.lac.order ∧
    (reportCandidate h r s).lac.window = s.lac.window ∧
    (reportCandidate h r s).lac.burst = s.lac.burst ∧
    (reportCandidate h r s).lac.path = s.lac.path ∧ (reportCandidate h r s).bp.mem = s.bp.mem ∧
    (reportCandidate h r s).iu.inten = s.iu.inten := by
  simp only [reportCandidate]
  (repeat' split) <;> simp

@[simp] theorem keepEntry_keeps (e : Entry) (c : List Block) (s : State) :
    (keepEntry e c s).lac = s.lac ∧ (keepEntry e c s).ts = s.ts ∧ (keepEntry e c s).fr = s.fr ∧
    (keepEntry e c s).pt = s.pt ∧ (keepEntry e c s).sc = s.sc ∧ (keepEntry e c s).cfg = s.cfg ∧
    (keepEntry e c s).ctr = s.ctr ∧ (keepEntry e c s).resetLow = s.resetLow ∧
    (keepEntry e c s).pending = s.pending ∧ (keepEntry e c s).bp.mem = s.bp.mem ∧
    (keepEntry e c s).rq.paused = s.rq.paused ∧ (keepEntry e c s).rq.refused = s.rq.refused ∧
    (keepEntry e c s).rq.overflow = s.rq.overflow ∧ (keepEntry e c s).rq.notice = s.rq.notice ∧
    (keepEntry e c s).rq.drop = s.rq.drop ∧ (keepEntry e c s).iu.inten = s.iu.inten ∧
    (keepEntry e c s).hp.args = s.hp.args ∧ (keepEntry e c s).hp.res = s.hp.res ∧
    (keepEntry e c s).hp.cst = s.hp.cst ∧ (keepEntry e c s).hp.cmd = s.hp.cmd ∧
    (keepEntry e c s).hp.winSel = s.hp.winSel := by
  simp [keepEntry]

@[simp] theorem deliver_keeps (p : Peer) (r : Rx) (s : State) :
    (deliver p r s).ts = s.ts ∧ (deliver p r s).fr = s.fr ∧ (deliver p r s).sc = s.sc ∧
    (deliver p r s).cfg = s.cfg ∧ (deliver p r s).ctr = s.ctr ∧
    (deliver p r s).resetLow = s.resetLow ∧ (deliver p r s).pending = s.pending ∧
    (deliver p r s).lac.mode = s.lac.mode ∧ (deliver p r s).lac.quiet = s.lac.quiet ∧
    (deliver p r s).lac.demoted = s.lac.demoted ∧ (deliver p r s).lac.faults = s.lac.faults ∧
    (deliver p r s).lac.offer = s.lac.offer ∧ (deliver p r s).lac.window = s.lac.window ∧
    (deliver p r s).lac.burst = s.lac.burst ∧ (deliver p r s).lac.path = s.lac.path ∧
    (deliver p r s).bp.mem = s.bp.mem ∧ (deliver p r s).rq.paused = s.rq.paused ∧
    (deliver p r s).rq.refused = s.rq.refused ∧ (deliver p r s).rq.overflow = s.rq.overflow ∧
    (deliver p r s).rq.notice = s.rq.notice ∧ (deliver p r s).rq.drop = s.rq.drop ∧
    (deliver p r s).iu.inten = s.iu.inten ∧ (deliver p r s).hp.args = s.hp.args ∧
    (deliver p r s).hp.res = s.hp.res ∧ (deliver p r s).hp.cst = s.hp.cst ∧
    (deliver p r s).hp.cmd = s.hp.cmd ∧ (deliver p r s).hp.winSel = s.hp.winSel := by
  simp [deliver]

@[simp] theorem decideRow_keeps (p : Peer) (r : Rx) (s : State) :
    (decideRow p r s).ts = s.ts ∧ (decideRow p r s).fr = s.fr ∧ (decideRow p r s).sc = s.sc ∧
    (decideRow p r s).cfg = s.cfg ∧ (decideRow p r s).resetLow = s.resetLow ∧
    (decideRow p r s).pending = s.pending ∧ (decideRow p r s).lac.mode = s.lac.mode ∧
    (decideRow p r s).lac.quiet = s.lac.quiet ∧ (decideRow p r s).lac.demoted = s.lac.demoted ∧
    (decideRow p r s).lac.faults = s.lac.faults ∧ (decideRow p r s).lac.offer = s.lac.offer ∧
    (decideRow p r s).lac.window = s.lac.window ∧ (decideRow p r s).lac.burst = s.lac.burst ∧
    (decideRow p r s).lac.path = s.lac.path ∧ (decideRow p r s).bp.mem = s.bp.mem ∧
    (decideRow p r s).rq.paused = s.rq.paused ∧ (decideRow p r s).rq.notice = s.rq.notice ∧
    (decideRow p r s).iu.inten = s.iu.inten ∧ (decideRow p r s).hp.args = s.hp.args ∧
    (decideRow p r s).hp.res = s.hp.res ∧ (decideRow p r s).hp.cst = s.hp.cst ∧
    (decideRow p r s).hp.cmd = s.hp.cmd ∧ (decideRow p r s).hp.winSel = s.hp.winSel := by
  simp only [decideRow]
  (repeat' split) <;> simp

@[simp] theorem decideData_keeps (r : Rx) (s : State) :
    (decideData r s).ts = s.ts ∧ (decideData r s).fr = s.fr ∧ (decideData r s).sc = s.sc ∧
    (decideData r s).cfg = s.cfg ∧ (decideData r s).resetLow = s.resetLow ∧
    (decideData r s).pending = s.pending ∧ (decideData r s).lac.mode = s.lac.mode ∧
    (decideData r s).lac.quiet = s.lac.quiet ∧ (decideData r s).lac.demoted = s.lac.demoted ∧
    (decideData r s).lac.faults = s.lac.faults ∧ (decideData r s).lac.offer = s.lac.offer ∧
    (decideData r s).lac.window = s.lac.window ∧ (decideData r s).lac.burst = s.lac.burst ∧
    (decideData r s).lac.path = s.lac.path ∧ (decideData r s).bp.mem = s.bp.mem ∧
    (decideData r s).rq.paused = s.rq.paused ∧ (decideData r s).rq.notice = s.rq.notice ∧
    (decideData r s).iu.inten = s.iu.inten ∧ (decideData r s).hp.args = s.hp.args ∧
    (decideData r s).hp.res = s.hp.res ∧ (decideData r s).hp.cst = s.hp.cst ∧
    (decideData r s).hp.cmd = s.hp.cmd ∧ (decideData r s).hp.winSel = s.hp.winSel := by
  simp only [decideData]
  (repeat' split) <;> simp

@[simp] theorem takeReady_keeps (r : Rx) (s : State) :
    (takeReady r s).bp = s.bp ∧ (takeReady r s).fr = s.fr ∧ (takeReady r s).rq = s.rq ∧
    (takeReady r s).sc = s.sc ∧ (takeReady r s).hp = s.hp ∧ (takeReady r s).cfg = s.cfg ∧
    (takeReady r s).ctr = s.ctr ∧ (takeReady r s).resetLow = s.resetLow ∧
    (takeReady r s).pending = s.pending ∧ (takeReady r s).lac.mode = s.lac.mode ∧
    (takeReady r s).lac.quiet = s.lac.quiet ∧ (takeReady r s).lac.demoted = s.lac.demoted ∧
    (takeReady r s).lac.faults = s.lac.faults ∧ (takeReady r s).lac.order = s.lac.order ∧
    (takeReady r s).lac.window = s.lac.window ∧ (takeReady r s).lac.burst = s.lac.burst ∧
    (takeReady r s).lac.path = s.lac.path ∧ (takeReady r s).ts.queues = s.ts.queues ∧
    (takeReady r s).ts.completion = s.ts.completion ∧ (takeReady r s).iu.inten = s.iu.inten := by
  simp only [takeReady]
  (repeat' split) <;> simp

@[simp] theorem queueGood_keeps (r : Rx) (d : DestSort) (s : State) :
    (queueGood r d s).lac = s.lac ∧ (queueGood r d s).ts = s.ts ∧ (queueGood r d s).fr = s.fr ∧
    (queueGood r d s).pt = s.pt ∧ (queueGood r d s).sc = s.sc ∧ (queueGood r d s).cfg = s.cfg ∧
    (queueGood r d s).resetLow = s.resetLow ∧ (queueGood r d s).pending = s.pending ∧
    (queueGood r d s).bp.mem = s.bp.mem ∧ (queueGood r d s).rq.paused = s.rq.paused ∧
    (queueGood r d s).rq.refused = s.rq.refused ∧ (queueGood r d s).rq.overflow = s.rq.overflow ∧
    (queueGood r d s).rq.notice = s.rq.notice ∧ (queueGood r d s).iu.inten = s.iu.inten ∧
    (queueGood r d s).hp.args = s.hp.args ∧ (queueGood r d s).hp.res = s.hp.res ∧
    (queueGood r d s).hp.cst = s.hp.cst ∧ (queueGood r d s).hp.cmd = s.hp.cmd ∧
    (queueGood r d s).hp.winSel = s.hp.winSel := by
  simp only [queueGood]
  (repeat' split) <;> simp

@[simp] theorem dealGood_keeps (r : Rx) (s : State) :
    (dealGood r s).fr = s.fr ∧ (dealGood r s).sc = s.sc ∧ (dealGood r s).cfg = s.cfg ∧
    (dealGood r s).resetLow = s.resetLow ∧ (dealGood r s).pending = s.pending ∧
    (dealGood r s).lac.mode = s.lac.mode ∧ (dealGood r s).lac.quiet = s.lac.quiet ∧
    (dealGood r s).lac.demoted = s.lac.demoted ∧ (dealGood r s).lac.faults = s.lac.faults ∧
    (dealGood r s).lac.window = s.lac.window ∧ (dealGood r s).lac.burst = s.lac.burst ∧
    (dealGood r s).lac.path = s.lac.path ∧ (dealGood r s).ts.queues = s.ts.queues ∧
    (dealGood r s).ts.completion = s.ts.completion ∧ (dealGood r s).bp.mem = s.bp.mem ∧
    (dealGood r s).rq.paused = s.rq.paused ∧ (dealGood r s).rq.notice = s.rq.notice ∧
    (dealGood r s).iu.inten = s.iu.inten ∧ (dealGood r s).hp.args = s.hp.args ∧
    (dealGood r s).hp.res = s.hp.res ∧ (dealGood r s).hp.cst = s.hp.cst ∧
    (dealGood r s).hp.cmd = s.hp.cmd ∧ (dealGood r s).hp.winSel = s.hp.winSel := by
  simp only [dealGood]
  (repeat' split) <;> simp

@[simp] theorem dealDamaged_keeps (h : Ending) (m : FrMode) (r : Rx) (s : State) :
    (dealDamaged h m r s).lac = s.lac ∧ (dealDamaged h m r s).ts = s.ts ∧
    (dealDamaged h m r s).fr = s.fr ∧ (dealDamaged h m r s).pt = s.pt ∧
    (dealDamaged h m r s).sc = s.sc ∧ (dealDamaged h m r s).cfg = s.cfg ∧
    (dealDamaged h m r s).resetLow = s.resetLow ∧ (dealDamaged h m r s).pending = s.pending ∧
    (dealDamaged h m r s).bp.mem = s.bp.mem ∧ (dealDamaged h m r s).rq.paused = s.rq.paused ∧
    (dealDamaged h m r s).rq.refused = s.rq.refused ∧
    (dealDamaged h m r s).rq.overflow = s.rq.overflow ∧
    (dealDamaged h m r s).rq.notice = s.rq.notice ∧ (dealDamaged h m r s).rq.drop = s.rq.drop ∧
    (dealDamaged h m r s).iu.inten = s.iu.inten ∧ (dealDamaged h m r s).hp.args = s.hp.args ∧
    (dealDamaged h m r s).hp.res = s.hp.res ∧ (dealDamaged h m r s).hp.cst = s.hp.cst ∧
    (dealDamaged h m r s).hp.cmd = s.hp.cmd ∧ (dealDamaged h m r s).hp.winSel = s.hp.winSel := by
  simp only [dealDamaged]
  (repeat' split) <;> simp

@[simp] theorem leaveReceive_keeps (s : State) :
    (leaveReceive s).ts = s.ts ∧ (leaveReceive s).bp = s.bp ∧ (leaveReceive s).fr = s.fr ∧
    (leaveReceive s).rq = s.rq ∧ (leaveReceive s).pt = s.pt ∧ (leaveReceive s).sc = s.sc ∧
    (leaveReceive s).iu = s.iu ∧ (leaveReceive s).hp = s.hp ∧ (leaveReceive s).cfg = s.cfg ∧
    (leaveReceive s).ctr = s.ctr ∧ (leaveReceive s).resetLow = s.resetLow ∧
    (leaveReceive s).pending = s.pending ∧ (leaveReceive s).lac.quiet = s.lac.quiet ∧
    (leaveReceive s).lac.demoted = s.lac.demoted ∧ (leaveReceive s).lac.faults = s.lac.faults ∧
    (leaveReceive s).lac.offer = s.lac.offer ∧ (leaveReceive s).lac.order = s.lac.order ∧
    (leaveReceive s).lac.window = s.lac.window ∧ (leaveReceive s).lac.burst = s.lac.burst ∧
    (leaveReceive s).lac.path = s.lac.path := by
  simp only [leaveReceive]
  (repeat' split) <;> simp

@[simp] theorem endReception_keeps (h : Ending) (s : State) :
    (endReception h s).sc = s.sc ∧ (endReception h s).cfg = s.cfg ∧
    (endReception h s).resetLow = s.resetLow ∧ (endReception h s).pending = s.pending ∧
    (endReception h s).lac.quiet = s.lac.quiet ∧ (endReception h s).lac.demoted = s.lac.demoted ∧
    (endReception h s).lac.faults = s.lac.faults ∧ (endReception h s).lac.window = s.lac.window ∧
    (endReception h s).lac.burst = s.lac.burst ∧ (endReception h s).lac.path = s.lac.path ∧
    (endReception h s).bp.mem = s.bp.mem ∧ (endReception h s).fr.groups = s.fr.groups ∧
    (endReception h s).rq.paused = s.rq.paused ∧ (endReception h s).rq.notice = s.rq.notice ∧
    (endReception h s).iu.inten = s.iu.inten ∧ (endReception h s).hp.args = s.hp.args ∧
    (endReception h s).hp.res = s.hp.res ∧ (endReception h s).hp.cst = s.hp.cst ∧
    (endReception h s).hp.cmd = s.hp.cmd ∧ (endReception h s).hp.winSel = s.hp.winSel := by
  simp only [endReception]
  (repeat' split) <;> simp

@[simp] theorem takeLead_keeps (b : Byte) (r : Rx) (s : State) :
    (takeLead b r s).sc = s.sc ∧ (takeLead b r s).cfg = s.cfg ∧
    (takeLead b r s).resetLow = s.resetLow ∧ (takeLead b r s).pending = s.pending ∧
    (takeLead b r s).lac.quiet = s.lac.quiet ∧ (takeLead b r s).lac.demoted = s.lac.demoted ∧
    (takeLead b r s).lac.faults = s.lac.faults ∧ (takeLead b r s).lac.window = s.lac.window ∧
    (takeLead b r s).lac.burst = s.lac.burst ∧ (takeLead b r s).lac.path = s.lac.path ∧
    (takeLead b r s).bp.mem = s.bp.mem ∧ (takeLead b r s).fr.groups = s.fr.groups ∧
    (takeLead b r s).rq.paused = s.rq.paused ∧ (takeLead b r s).rq.notice = s.rq.notice ∧
    (takeLead b r s).iu.inten = s.iu.inten ∧ (takeLead b r s).hp.args = s.hp.args ∧
    (takeLead b r s).hp.res = s.hp.res ∧ (takeLead b r s).hp.cst = s.hp.cst ∧
    (takeLead b r s).hp.cmd = s.hp.cmd ∧ (takeLead b r s).hp.winSel = s.hp.winSel := by
  simp only [takeLead]
  (repeat' split) <;> simp

@[simp] theorem takeControl_keeps (b : Byte) (r : Rx) (s : State) :
    (takeControl b r s).sc = s.sc ∧ (takeControl b r s).cfg = s.cfg ∧
    (takeControl b r s).resetLow = s.resetLow ∧ (takeControl b r s).pending = s.pending ∧
    (takeControl b r s).lac.quiet = s.lac.quiet ∧ (takeControl b r s).lac.demoted = s.lac.demoted ∧
    (takeControl b r s).lac.faults = s.lac.faults ∧ (takeControl b r s).lac.window = s.lac.window ∧
    (takeControl b r s).lac.burst = s.lac.burst ∧ (takeControl b r s).lac.path = s.lac.path ∧
    (takeControl b r s).bp.mem = s.bp.mem ∧ (takeControl b r s).fr.groups = s.fr.groups ∧
    (takeControl b r s).rq.paused = s.rq.paused ∧ (takeControl b r s).rq.notice = s.rq.notice ∧
    (takeControl b r s).iu.inten = s.iu.inten ∧ (takeControl b r s).hp.args = s.hp.args ∧
    (takeControl b r s).hp.res = s.hp.res ∧ (takeControl b r s).hp.cst = s.hp.cst ∧
    (takeControl b r s).hp.cmd = s.hp.cmd ∧ (takeControl b r s).hp.winSel = s.hp.winSel := by
  simp only [takeControl]
  (repeat' split) <;> simp

@[simp] theorem takeDest_keeps (b : Byte) (r : Rx) (s : State) :
    (takeDest b r s).sc = s.sc ∧ (takeDest b r s).cfg = s.cfg ∧
    (takeDest b r s).resetLow = s.resetLow ∧ (takeDest b r s).pending = s.pending ∧
    (takeDest b r s).lac.quiet = s.lac.quiet ∧ (takeDest b r s).lac.demoted = s.lac.demoted ∧
    (takeDest b r s).lac.faults = s.lac.faults ∧ (takeDest b r s).lac.window = s.lac.window ∧
    (takeDest b r s).lac.burst = s.lac.burst ∧ (takeDest b r s).lac.path = s.lac.path ∧
    (takeDest b r s).bp.mem = s.bp.mem ∧ (takeDest b r s).fr.groups = s.fr.groups ∧
    (takeDest b r s).rq.paused = s.rq.paused ∧ (takeDest b r s).rq.notice = s.rq.notice ∧
    (takeDest b r s).iu.inten = s.iu.inten ∧ (takeDest b r s).hp.args = s.hp.args ∧
    (takeDest b r s).hp.res = s.hp.res ∧ (takeDest b r s).hp.cst = s.hp.cst ∧
    (takeDest b r s).hp.cmd = s.hp.cmd ∧ (takeDest b r s).hp.winSel = s.hp.winSel := by
  simp only [takeDest]
  (repeat' split) <;> simp

@[simp] theorem claimReception_keeps (r : Rx) (s : State) :
    (claimReception r s).lac = s.lac ∧ (claimReception r s).ts = s.ts ∧
    (claimReception r s).rq = s.rq ∧ (claimReception r s).pt = s.pt ∧
    (claimReception r s).sc = s.sc ∧ (claimReception r s).iu = s.iu ∧
    (claimReception r s).hp = s.hp ∧ (claimReception r s).cfg = s.cfg ∧
    (claimReception r s).ctr = s.ctr ∧ (claimReception r s).resetLow = s.resetLow ∧
    (claimReception r s).pending = s.pending ∧ (claimReception r s).bp.mem = s.bp.mem ∧
    (claimReception r s).fr.groups = s.fr.groups ∧ (claimReception r s).fr.mode = s.fr.mode ∧
    (claimReception r s).fr.guard = s.fr.guard := by
  simp only [claimReception]
  (repeat' split) <;> simp

@[simp] theorem takeFourth_keeps (b : Byte) (r : Rx) (s : State) :
    (takeFourth b r s).sc = s.sc ∧ (takeFourth b r s).cfg = s.cfg ∧
    (takeFourth b r s).resetLow = s.resetLow ∧ (takeFourth b r s).pending = s.pending ∧
    (takeFourth b r s).lac.quiet = s.lac.quiet ∧ (takeFourth b r s).lac.demoted = s.lac.demoted ∧
    (takeFourth b r s).lac.faults = s.lac.faults ∧ (takeFourth b r s).lac.window = s.lac.window ∧
    (takeFourth b r s).lac.burst = s.lac.burst ∧ (takeFourth b r s).lac.path = s.lac.path ∧
    (takeFourth b r s).bp.mem = s.bp.mem ∧ (takeFourth b r s).fr.groups = s.fr.groups ∧
    (takeFourth b r s).rq.paused = s.rq.paused ∧ (takeFourth b r s).rq.notice = s.rq.notice ∧
    (takeFourth b r s).iu.inten = s.iu.inten ∧ (takeFourth b r s).hp.args = s.hp.args ∧
    (takeFourth b r s).hp.res = s.hp.res ∧ (takeFourth b r s).hp.cst = s.hp.cst ∧
    (takeFourth b r s).hp.cmd = s.hp.cmd ∧ (takeFourth b r s).hp.winSel = s.hp.winSel := by
  simp only [takeFourth]
  (repeat' split) <;> simp

@[simp] theorem takeHeader_keeps (b : Byte) (r : Rx) (s : State) :
    (takeHeader b r s).sc = s.sc ∧ (takeHeader b r s).cfg = s.cfg ∧
    (takeHeader b r s).resetLow = s.resetLow ∧ (takeHeader b r s).pending = s.pending ∧
    (takeHeader b r s).lac.quiet = s.lac.quiet ∧ (takeHeader b r s).lac.demoted = s.lac.demoted ∧
    (takeHeader b r s).lac.faults = s.lac.faults ∧ (takeHeader b r s).lac.window = s.lac.window ∧
    (takeHeader b r s).lac.burst = s.lac.burst ∧ (takeHeader b r s).lac.path = s.lac.path ∧
    (takeHeader b r s).bp.mem = s.bp.mem ∧ (takeHeader b r s).fr.groups = s.fr.groups ∧
    (takeHeader b r s).rq.paused = s.rq.paused ∧ (takeHeader b r s).rq.notice = s.rq.notice ∧
    (takeHeader b r s).iu.inten = s.iu.inten ∧ (takeHeader b r s).hp.args = s.hp.args ∧
    (takeHeader b r s).hp.res = s.hp.res ∧ (takeHeader b r s).hp.cst = s.hp.cst ∧
    (takeHeader b r s).hp.cmd = s.hp.cmd ∧ (takeHeader b r s).hp.winSel = s.hp.winSel := by
  simp only [takeHeader]
  (repeat' split) <;> simp

@[simp] theorem takeCheck_keeps (b : Byte) (r : Rx) (s : State) :
    (takeCheck b r s).sc = s.sc ∧ (takeCheck b r s).cfg = s.cfg ∧
    (takeCheck b r s).resetLow = s.resetLow ∧ (takeCheck b r s).pending = s.pending ∧
    (takeCheck b r s).lac.quiet = s.lac.quiet ∧ (takeCheck b r s).lac.demoted = s.lac.demoted ∧
    (takeCheck b r s).lac.faults = s.lac.faults ∧ (takeCheck b r s).lac.window = s.lac.window ∧
    (takeCheck b r s).lac.burst = s.lac.burst ∧ (takeCheck b r s).lac.path = s.lac.path ∧
    (takeCheck b r s).bp.mem = s.bp.mem ∧ (takeCheck b r s).fr.groups = s.fr.groups ∧
    (takeCheck b r s).rq.paused = s.rq.paused ∧ (takeCheck b r s).rq.notice = s.rq.notice ∧
    (takeCheck b r s).iu.inten = s.iu.inten ∧ (takeCheck b r s).hp.args = s.hp.args ∧
    (takeCheck b r s).hp.res = s.hp.res ∧ (takeCheck b r s).hp.cst = s.hp.cst ∧
    (takeCheck b r s).hp.cmd = s.hp.cmd ∧ (takeCheck b r s).hp.winSel = s.hp.winSel := by
  simp only [takeCheck]
  (repeat' split) <;> simp

@[simp] theorem ownStartBit_keeps (s : State) :
    (ownStartBit s).ts = s.ts ∧ (ownStartBit s).bp = s.bp ∧ (ownStartBit s).rq = s.rq ∧
    (ownStartBit s).pt = s.pt ∧ (ownStartBit s).sc = s.sc ∧ (ownStartBit s).iu = s.iu ∧
    (ownStartBit s).hp = s.hp ∧ (ownStartBit s).cfg = s.cfg ∧ (ownStartBit s).ctr = s.ctr ∧
    (ownStartBit s).resetLow = s.resetLow ∧ (ownStartBit s).pending = s.pending ∧
    (ownStartBit s).lac.mode = s.lac.mode ∧ (ownStartBit s).lac.quiet = s.lac.quiet ∧
    (ownStartBit s).lac.demoted = s.lac.demoted ∧ (ownStartBit s).lac.faults = s.lac.faults ∧
    (ownStartBit s).lac.burst = s.lac.burst ∧ (ownStartBit s).lac.path = s.lac.path ∧
    (ownStartBit s).fr.groups = s.fr.groups := by
  simp only [ownStartBit]
  (repeat' split) <;> simp

@[simp] theorem ownFrameEnd_keeps (s : State) :
    (ownFrameEnd s).lac = s.lac ∧ (ownFrameEnd s).ts = s.ts ∧ (ownFrameEnd s).bp = s.bp ∧
    (ownFrameEnd s).rq = s.rq ∧ (ownFrameEnd s).pt = s.pt ∧ (ownFrameEnd s).sc = s.sc ∧
    (ownFrameEnd s).iu = s.iu ∧ (ownFrameEnd s).hp = s.hp ∧ (ownFrameEnd s).cfg = s.cfg ∧
    (ownFrameEnd s).ctr = s.ctr ∧ (ownFrameEnd s).resetLow = s.resetLow ∧
    (ownFrameEnd s).pending = s.pending ∧ (ownFrameEnd s).fr.groups = s.fr.groups ∧
    (ownFrameEnd s).fr.mode = s.fr.mode ∧ (ownFrameEnd s).fr.record = s.fr.record := by
  simp only [ownFrameEnd]
  (repeat' split) <;> simp

@[simp] theorem cutByAbort_keeps (s : State) :
    (cutByAbort s).sc = s.sc ∧ (cutByAbort s).cfg = s.cfg ∧ (cutByAbort s).resetLow = s.resetLow ∧
    (cutByAbort s).pending = s.pending ∧ (cutByAbort s).bp.mem = s.bp.mem ∧
    (cutByAbort s).fr.groups = s.fr.groups ∧ (cutByAbort s).rq.paused = s.rq.paused ∧
    (cutByAbort s).rq.notice = s.rq.notice ∧ (cutByAbort s).iu.inten = s.iu.inten ∧
    (cutByAbort s).hp.args = s.hp.args ∧ (cutByAbort s).hp.res = s.hp.res ∧
    (cutByAbort s).hp.cst = s.hp.cst ∧ (cutByAbort s).hp.cmd = s.hp.cmd ∧
    (cutByAbort s).hp.winSel = s.hp.winSel ∧ (cutByAbort s).lac.faults = s.lac.faults := by
  simp only [cutByAbort]
  (repeat' split) <;> simp

@[simp] theorem commitOffer_keeps (o : Offer) (c : List Byte) (s : State) :
    (commitOffer o c s).bp = s.bp ∧ (commitOffer o c s).fr = s.fr ∧ (commitOffer o c s).pt = s.pt ∧
    (commitOffer o c s).sc = s.sc ∧ (commitOffer o c s).iu = s.iu ∧ (commitOffer o c s).hp = s.hp ∧
    (commitOffer o c s).cfg = s.cfg ∧ (commitOffer o c s).ctr = s.ctr ∧
    (commitOffer o c s).resetLow = s.resetLow ∧ (commitOffer o c s).pending = s.pending ∧
    (commitOffer o c s).ts.completion = s.ts.completion ∧
    (commitOffer o c s).rq.entries = s.rq.entries ∧ (commitOffer o c s).rq.paused = s.rq.paused ∧
    (commitOffer o c s).rq.congested = s.rq.congested ∧
    (commitOffer o c s).rq.refused = s.rq.refused ∧
    (commitOffer o c s).rq.overflow = s.rq.overflow ∧ (commitOffer o c s).rq.drop = s.rq.drop ∧
    (commitOffer o c s).rq.loss = s.rq.loss ∧ (commitOffer o c s).rq.stale = s.rq.stale ∧
    (commitOffer o c s).rq.rxStale = s.rq.rxStale ∧ (commitOffer o c s).lac.quiet = s.lac.quiet ∧
    (commitOffer o c s).lac.demoted = s.lac.demoted ∧
    (commitOffer o c s).lac.faults = s.lac.faults ∧ (commitOffer o c s).lac.order = s.lac.order ∧
    (commitOffer o c s).lac.window = s.lac.window := by
  simp only [commitOffer]
  (repeat' split) <;> simp

@[simp] theorem cutSlot_keeps (s : State) :
    (cutSlot s).fr = s.fr ∧ (cutSlot s).sc = s.sc ∧ (cutSlot s).iu = s.iu ∧
    (cutSlot s).hp = s.hp ∧ (cutSlot s).cfg = s.cfg ∧ (cutSlot s).ctr = s.ctr ∧
    (cutSlot s).resetLow = s.resetLow ∧ (cutSlot s).pending = s.pending ∧
    (cutSlot s).lac.mode = s.lac.mode ∧ (cutSlot s).lac.quiet = s.lac.quiet ∧
    (cutSlot s).lac.demoted = s.lac.demoted ∧ (cutSlot s).lac.faults = s.lac.faults ∧
    (cutSlot s).lac.order = s.lac.order ∧ (cutSlot s).lac.window = s.lac.window ∧
    (cutSlot s).lac.burst = s.lac.burst ∧ (cutSlot s).lac.path = s.lac.path ∧
    (cutSlot s).bp.mem = s.bp.mem ∧ (cutSlot s).rq.entries = s.rq.entries ∧
    (cutSlot s).rq.paused = s.rq.paused ∧ (cutSlot s).rq.congested = s.rq.congested ∧
    (cutSlot s).rq.refused = s.rq.refused ∧ (cutSlot s).rq.overflow = s.rq.overflow ∧
    (cutSlot s).rq.drop = s.rq.drop ∧ (cutSlot s).rq.loss = s.rq.loss ∧
    (cutSlot s).rq.stale = s.rq.stale ∧ (cutSlot s).rq.rxStale = s.rq.rxStale := by
  simp only [cutSlot]
  split <;> simp

@[simp] theorem closeWindow_keeps (s : State) :
    (closeWindow s).fr = s.fr ∧ (closeWindow s).sc = s.sc ∧ (closeWindow s).iu = s.iu ∧
    (closeWindow s).hp = s.hp ∧ (closeWindow s).cfg = s.cfg ∧ (closeWindow s).ctr = s.ctr ∧
    (closeWindow s).resetLow = s.resetLow ∧ (closeWindow s).pending = s.pending ∧
    (closeWindow s).lac.mode = s.lac.mode ∧ (closeWindow s).lac.quiet = s.lac.quiet ∧
    (closeWindow s).lac.demoted = s.lac.demoted ∧ (closeWindow s).lac.faults = s.lac.faults ∧
    (closeWindow s).lac.order = s.lac.order ∧ (closeWindow s).lac.window = s.lac.window ∧
    (closeWindow s).lac.burst = s.lac.burst ∧ (closeWindow s).lac.path = s.lac.path ∧
    (closeWindow s).bp.mem = s.bp.mem ∧ (closeWindow s).rq.entries = s.rq.entries ∧
    (closeWindow s).rq.paused = s.rq.paused ∧ (closeWindow s).rq.congested = s.rq.congested ∧
    (closeWindow s).rq.refused = s.rq.refused ∧ (closeWindow s).rq.overflow = s.rq.overflow ∧
    (closeWindow s).rq.drop = s.rq.drop ∧ (closeWindow s).rq.loss = s.rq.loss ∧
    (closeWindow s).rq.stale = s.rq.stale ∧ (closeWindow s).rq.rxStale = s.rq.rxStale := by
  simp only [closeWindow]
  split <;> simp

@[simp] theorem returnNotice_keeps (s : State) :
    (returnNotice s).fr = s.fr ∧ (returnNotice s).sc = s.sc ∧ (returnNotice s).iu = s.iu ∧
    (returnNotice s).hp = s.hp ∧ (returnNotice s).cfg = s.cfg ∧ (returnNotice s).ctr = s.ctr ∧
    (returnNotice s).resetLow = s.resetLow ∧ (returnNotice s).pending = s.pending ∧
    (returnNotice s).lac.mode = s.lac.mode ∧ (returnNotice s).lac.quiet = s.lac.quiet ∧
    (returnNotice s).lac.demoted = s.lac.demoted ∧ (returnNotice s).lac.faults = s.lac.faults ∧
    (returnNotice s).lac.order = s.lac.order ∧ (returnNotice s).lac.window = s.lac.window ∧
    (returnNotice s).lac.burst = s.lac.burst ∧ (returnNotice s).lac.path = s.lac.path ∧
    (returnNotice s).bp.mem = s.bp.mem ∧ (returnNotice s).rq.entries = s.rq.entries ∧
    (returnNotice s).rq.paused = s.rq.paused ∧ (returnNotice s).rq.congested = s.rq.congested ∧
    (returnNotice s).rq.refused = s.rq.refused ∧ (returnNotice s).rq.overflow = s.rq.overflow ∧
    (returnNotice s).rq.drop = s.rq.drop ∧ (returnNotice s).rq.loss = s.rq.loss ∧
    (returnNotice s).rq.stale = s.rq.stale ∧ (returnNotice s).rq.rxStale = s.rq.rxStale := by
  simp only [returnNotice]
  split <;> simp

@[simp] theorem stopScheduler_keeps (s : State) :
    (stopScheduler s).fr = s.fr ∧ (stopScheduler s).sc = s.sc ∧ (stopScheduler s).iu = s.iu ∧
    (stopScheduler s).hp = s.hp ∧ (stopScheduler s).cfg = s.cfg ∧ (stopScheduler s).ctr = s.ctr ∧
    (stopScheduler s).resetLow = s.resetLow ∧ (stopScheduler s).pending = s.pending ∧
    (stopScheduler s).lac.mode = s.lac.mode ∧ (stopScheduler s).lac.quiet = s.lac.quiet ∧
    (stopScheduler s).lac.demoted = s.lac.demoted ∧ (stopScheduler s).lac.faults = s.lac.faults ∧
    (stopScheduler s).lac.order = s.lac.order ∧ (stopScheduler s).lac.window = s.lac.window ∧
    (stopScheduler s).lac.burst = s.lac.burst ∧ (stopScheduler s).lac.path = s.lac.path ∧
    (stopScheduler s).bp.mem = s.bp.mem ∧ (stopScheduler s).rq.entries = s.rq.entries ∧
    (stopScheduler s).rq.paused = s.rq.paused ∧ (stopScheduler s).rq.congested = s.rq.congested ∧
    (stopScheduler s).rq.refused = s.rq.refused ∧ (stopScheduler s).rq.overflow = s.rq.overflow ∧
    (stopScheduler s).rq.drop = s.rq.drop ∧ (stopScheduler s).rq.loss = s.rq.loss ∧
    (stopScheduler s).rq.stale = s.rq.stale ∧ (stopScheduler s).rq.rxStale = s.rq.rxStale := by
  simp [stopScheduler]

@[simp] theorem stopReceiver_keeps (a b : Station) (d : Bool) (s : State) :
    (stopReceiver a b d s).lac = s.lac ∧ (stopReceiver a b d s).ts = s.ts ∧
    (stopReceiver a b d s).rq = s.rq ∧ (stopReceiver a b d s).pt = s.pt ∧
    (stopReceiver a b d s).sc = s.sc ∧ (stopReceiver a b d s).iu = s.iu ∧
    (stopReceiver a b d s).hp = s.hp ∧ (stopReceiver a b d s).cfg = s.cfg ∧
    (stopReceiver a b d s).ctr = s.ctr ∧ (stopReceiver a b d s).resetLow = s.resetLow ∧
    (stopReceiver a b d s).pending = s.pending ∧ (stopReceiver a b d s).bp.mem = s.bp.mem ∧
    (stopReceiver a b d s).fr.groups = s.fr.groups := by
  simp only [stopReceiver]
  (repeat' split) <;> simp

@[simp] theorem leaveLine_keeps (t : Station) (s : State) :
    (leaveLine t s).iu = s.iu ∧ (leaveLine t s).hp = s.hp ∧ (leaveLine t s).cfg = s.cfg ∧
    (leaveLine t s).ctr = s.ctr ∧ (leaveLine t s).resetLow = s.resetLow ∧
    (leaveLine t s).pending = s.pending ∧ (leaveLine t s).bp.mem = s.bp.mem ∧
    (leaveLine t s).fr.groups = s.fr.groups ∧ (leaveLine t s).rq.entries = s.rq.entries ∧
    (leaveLine t s).rq.paused = s.rq.paused ∧ (leaveLine t s).rq.congested = s.rq.congested ∧
    (leaveLine t s).rq.refused = s.rq.refused ∧ (leaveLine t s).rq.overflow = s.rq.overflow ∧
    (leaveLine t s).rq.drop = s.rq.drop ∧ (leaveLine t s).rq.loss = s.rq.loss ∧
    (leaveLine t s).rq.stale = s.rq.stale ∧ (leaveLine t s).rq.rxStale = s.rq.rxStale ∧
    (leaveLine t s).sc.address = s.sc.address ∧ (leaveLine t s).sc.faultEvent = s.sc.faultEvent ∧
    (leaveLine t s).lac.faults = s.lac.faults := by
  simp [leaveLine]

@[simp] theorem stopHearing_keeps (s : State) :
    (stopHearing s).ts = s.ts ∧ (stopHearing s).rq = s.rq ∧ (stopHearing s).pt = s.pt ∧
    (stopHearing s).iu = s.iu ∧ (stopHearing s).hp = s.hp ∧ (stopHearing s).cfg = s.cfg ∧
    (stopHearing s).ctr = s.ctr ∧ (stopHearing s).resetLow = s.resetLow ∧
    (stopHearing s).pending = s.pending ∧ (stopHearing s).bp.mem = s.bp.mem ∧
    (stopHearing s).fr.groups = s.fr.groups ∧ (stopHearing s).sc.address = s.sc.address ∧
    (stopHearing s).sc.faultEvent = s.sc.faultEvent ∧ (stopHearing s).lac.faults = s.lac.faults ∧
    (stopHearing s).lac.offer = s.lac.offer ∧ (stopHearing s).lac.order = s.lac.order ∧
    (stopHearing s).lac.window = s.lac.window ∧ (stopHearing s).lac.burst = s.lac.burst ∧
    (stopHearing s).lac.demoted = s.lac.demoted := by
  simp [stopHearing]

@[simp] theorem enterSilent_keeps (s : State) :
    (enterSilent s).iu = s.iu ∧ (enterSilent s).hp = s.hp ∧ (enterSilent s).cfg = s.cfg ∧
    (enterSilent s).ctr = s.ctr ∧ (enterSilent s).resetLow = s.resetLow ∧
    (enterSilent s).pending = s.pending ∧ (enterSilent s).bp.mem = s.bp.mem ∧
    (enterSilent s).fr.groups = s.fr.groups ∧ (enterSilent s).rq.entries = s.rq.entries ∧
    (enterSilent s).rq.paused = s.rq.paused ∧ (enterSilent s).rq.congested = s.rq.congested ∧
    (enterSilent s).rq.refused = s.rq.refused ∧ (enterSilent s).rq.overflow = s.rq.overflow ∧
    (enterSilent s).rq.drop = s.rq.drop ∧ (enterSilent s).rq.loss = s.rq.loss ∧
    (enterSilent s).rq.stale = s.rq.stale ∧ (enterSilent s).rq.rxStale = s.rq.rxStale ∧
    (enterSilent s).sc.address = s.sc.address ∧ (enterSilent s).lac.faults = s.lac.faults := by
  simp [enterSilent]

@[simp] theorem strayCandidate_keeps (s : State) :
    (strayCandidate s).fr = s.fr ∧ (strayCandidate s).rq = s.rq ∧ (strayCandidate s).sc = s.sc ∧
    (strayCandidate s).iu = s.iu ∧ (strayCandidate s).hp = s.hp ∧ (strayCandidate s).cfg = s.cfg ∧
    (strayCandidate s).ctr = s.ctr ∧ (strayCandidate s).resetLow = s.resetLow ∧
    (strayCandidate s).pending = s.pending ∧ (strayCandidate s).bp.mem = s.bp.mem ∧
    (strayCandidate s).lac.mode = s.lac.mode ∧ (strayCandidate s).lac.quiet = s.lac.quiet ∧
    (strayCandidate s).lac.demoted = s.lac.demoted ∧ (strayCandidate s).lac.faults = s.lac.faults ∧
    (strayCandidate s).lac.burst = s.lac.burst ∧ (strayCandidate s).lac.path = s.lac.path := by
  simp only [strayCandidate]
  (repeat' split) <;> simp

@[simp] theorem takeStray_keeps (s : State) :
    (takeStray s).rq = s.rq ∧ (takeStray s).sc = s.sc ∧ (takeStray s).iu = s.iu ∧
    (takeStray s).hp = s.hp ∧ (takeStray s).cfg = s.cfg ∧ (takeStray s).resetLow = s.resetLow ∧
    (takeStray s).pending = s.pending ∧ (takeStray s).bp.mem = s.bp.mem ∧
    (takeStray s).fr.groups = s.fr.groups ∧ (takeStray s).lac.mode = s.lac.mode ∧
    (takeStray s).lac.faults = s.lac.faults ∧ (takeStray s).lac.burst = s.lac.burst ∧
    (takeStray s).lac.demoted = s.lac.demoted := by
  simp [takeStray]

@[simp] theorem takeStart_keeps (s : State) :
    (takeStart s).ts = s.ts ∧ (takeStart s).bp = s.bp ∧ (takeStart s).rq = s.rq ∧
    (takeStart s).pt = s.pt ∧ (takeStart s).sc = s.sc ∧ (takeStart s).iu = s.iu ∧
    (takeStart s).hp = s.hp ∧ (takeStart s).cfg = s.cfg ∧ (takeStart s).ctr = s.ctr ∧
    (takeStart s).resetLow = s.resetLow ∧ (takeStart s).pending = s.pending ∧
    (takeStart s).fr.groups = s.fr.groups ∧ (takeStart s).lac.demoted = s.lac.demoted ∧
    (takeStart s).lac.faults = s.lac.faults ∧ (takeStart s).lac.offer = s.lac.offer ∧
    (takeStart s).lac.burst = s.lac.burst ∧ (takeStart s).lac.path = s.lac.path := by
  simp [takeStart]

@[simp] theorem takeStartBit_keeps (s : State) :
    (takeStartBit s).rq = s.rq ∧ (takeStartBit s).sc = s.sc ∧ (takeStartBit s).iu = s.iu ∧
    (takeStartBit s).hp = s.hp ∧ (takeStartBit s).cfg = s.cfg ∧
    (takeStartBit s).resetLow = s.resetLow ∧ (takeStartBit s).pending = s.pending ∧
    (takeStartBit s).bp.mem = s.bp.mem ∧ (takeStartBit s).fr.groups = s.fr.groups ∧
    (takeStartBit s).lac.faults = s.lac.faults ∧ (takeStartBit s).lac.burst = s.lac.burst ∧
    (takeStartBit s).lac.demoted = s.lac.demoted := by
  simp only [takeStartBit]
  (repeat' split) <;> simp

@[simp] theorem takeOverLead_keeps (l : List LineBit) (s : State) :
    (takeOverLead l s).lac = s.lac ∧ (takeOverLead l s).ts = s.ts ∧ (takeOverLead l s).rq = s.rq ∧
    (takeOverLead l s).pt = s.pt ∧ (takeOverLead l s).sc = s.sc ∧ (takeOverLead l s).iu = s.iu ∧
    (takeOverLead l s).hp = s.hp ∧ (takeOverLead l s).cfg = s.cfg ∧
    (takeOverLead l s).ctr = s.ctr ∧ (takeOverLead l s).resetLow = s.resetLow ∧
    (takeOverLead l s).pending = s.pending ∧ (takeOverLead l s).bp.mem = s.bp.mem ∧
    (takeOverLead l s).fr.groups = s.fr.groups := by
  simp [takeOverLead]

@[simp] theorem returnOffer_keeps (b : BurstSource) (s : State) :
    (returnOffer b s).bp = s.bp ∧ (returnOffer b s).fr = s.fr ∧ (returnOffer b s).pt = s.pt ∧
    (returnOffer b s).sc = s.sc ∧ (returnOffer b s).iu = s.iu ∧ (returnOffer b s).hp = s.hp ∧
    (returnOffer b s).cfg = s.cfg ∧ (returnOffer b s).ctr = s.ctr ∧
    (returnOffer b s).resetLow = s.resetLow ∧ (returnOffer b s).pending = s.pending ∧
    (returnOffer b s).lac.mode = s.lac.mode ∧ (returnOffer b s).lac.quiet = s.lac.quiet ∧
    (returnOffer b s).lac.demoted = s.lac.demoted ∧ (returnOffer b s).lac.faults = s.lac.faults ∧
    (returnOffer b s).lac.order = s.lac.order ∧ (returnOffer b s).lac.window = s.lac.window ∧
    (returnOffer b s).lac.burst = s.lac.burst ∧ (returnOffer b s).lac.path = s.lac.path ∧
    (returnOffer b s).ts.completion = s.ts.completion ∧
    (returnOffer b s).rq.entries = s.rq.entries ∧ (returnOffer b s).rq.paused = s.rq.paused ∧
    (returnOffer b s).rq.congested = s.rq.congested ∧ (returnOffer b s).rq.refused = s.rq.refused ∧
    (returnOffer b s).rq.overflow = s.rq.overflow ∧ (returnOffer b s).rq.drop = s.rq.drop ∧
    (returnOffer b s).rq.loss = s.rq.loss ∧ (returnOffer b s).rq.stale = s.rq.stale ∧
    (returnOffer b s).rq.rxStale = s.rq.rxStale := by
  simp only [returnOffer]
  (repeat' split) <;> simp

@[simp] theorem loseLead_keeps (b : Burst) (k : Nat) (s : State) :
    (loseLead b k s).sc = s.sc ∧ (loseLead b k s).iu = s.iu ∧ (loseLead b k s).hp = s.hp ∧
    (loseLead b k s).cfg = s.cfg ∧ (loseLead b k s).resetLow = s.resetLow ∧
    (loseLead b k s).pending = s.pending ∧ (loseLead b k s).bp.mem = s.bp.mem ∧
    (loseLead b k s).fr.groups = s.fr.groups ∧ (loseLead b k s).rq.entries = s.rq.entries ∧
    (loseLead b k s).rq.paused = s.rq.paused ∧ (loseLead b k s).rq.congested = s.rq.congested ∧
    (loseLead b k s).rq.refused = s.rq.refused ∧ (loseLead b k s).rq.overflow = s.rq.overflow ∧
    (loseLead b k s).rq.drop = s.rq.drop ∧ (loseLead b k s).rq.loss = s.rq.loss ∧
    (loseLead b k s).rq.stale = s.rq.stale ∧ (loseLead b k s).rq.rxStale = s.rq.rxStale ∧
    (loseLead b k s).lac.faults = s.lac.faults ∧ (loseLead b k s).lac.demoted = s.lac.demoted ∧
    (loseLead b k s).lac.order = s.lac.order ∧ (loseLead b k s).lac.window = s.lac.window := by
  simp [loseLead]

@[simp] theorem reportCut_keeps (b : BurstSource) (s : State) :
    (reportCut b s).lac = s.lac ∧ (reportCut b s).fr = s.fr ∧ (reportCut b s).sc = s.sc ∧
    (reportCut b s).iu = s.iu ∧ (reportCut b s).hp = s.hp ∧ (reportCut b s).cfg = s.cfg ∧
    (reportCut b s).ctr = s.ctr ∧ (reportCut b s).resetLow = s.resetLow ∧
    (reportCut b s).pending = s.pending ∧ (reportCut b s).bp.mem = s.bp.mem ∧
    (reportCut b s).rq.entries = s.rq.entries ∧ (reportCut b s).rq.paused = s.rq.paused ∧
    (reportCut b s).rq.congested = s.rq.congested ∧ (reportCut b s).rq.refused = s.rq.refused ∧
    (reportCut b s).rq.overflow = s.rq.overflow ∧ (reportCut b s).rq.drop = s.rq.drop ∧
    (reportCut b s).rq.loss = s.rq.loss ∧ (reportCut b s).rq.stale = s.rq.stale ∧
    (reportCut b s).rq.rxStale = s.rq.rxStale := by
  simp only [reportCut]
  (repeat' split) <;> simp

@[simp] theorem applyFaultLimit_keeps (s : State) :
    (applyFaultLimit s).iu = s.iu ∧ (applyFaultLimit s).hp = s.hp ∧
    (applyFaultLimit s).cfg = s.cfg ∧ (applyFaultLimit s).ctr = s.ctr ∧
    (applyFaultLimit s).resetLow = s.resetLow ∧ (applyFaultLimit s).pending = s.pending ∧
    (applyFaultLimit s).bp.mem = s.bp.mem ∧ (applyFaultLimit s).fr.groups = s.fr.groups ∧
    (applyFaultLimit s).rq.entries = s.rq.entries ∧ (applyFaultLimit s).rq.paused = s.rq.paused ∧
    (applyFaultLimit s).rq.congested = s.rq.congested ∧
    (applyFaultLimit s).rq.refused = s.rq.refused ∧
    (applyFaultLimit s).rq.overflow = s.rq.overflow ∧ (applyFaultLimit s).rq.drop = s.rq.drop ∧
    (applyFaultLimit s).rq.loss = s.rq.loss ∧ (applyFaultLimit s).rq.stale = s.rq.stale ∧
    (applyFaultLimit s).rq.rxStale = s.rq.rxStale ∧ (applyFaultLimit s).sc.address = s.sc.address ∧
    (applyFaultLimit s).lac.faults = s.lac.faults := by
  simp only [applyFaultLimit]
  (repeat' split) <;> simp

@[simp] theorem takeEchoFault_keeps (b : Burst) (k : Nat) (s : State) :
    (takeEchoFault b k s).iu = s.iu ∧ (takeEchoFault b k s).hp = s.hp ∧
    (takeEchoFault b k s).cfg = s.cfg ∧ (takeEchoFault b k s).resetLow = s.resetLow ∧
    (takeEchoFault b k s).pending = s.pending ∧ (takeEchoFault b k s).bp.mem = s.bp.mem ∧
    (takeEchoFault b k s).fr.groups = s.fr.groups ∧
    (takeEchoFault b k s).rq.entries = s.rq.entries ∧
    (takeEchoFault b k s).rq.paused = s.rq.paused ∧
    (takeEchoFault b k s).rq.congested = s.rq.congested ∧
    (takeEchoFault b k s).rq.refused = s.rq.refused ∧
    (takeEchoFault b k s).rq.overflow = s.rq.overflow ∧ (takeEchoFault b k s).rq.drop = s.rq.drop ∧
    (takeEchoFault b k s).rq.loss = s.rq.loss ∧ (takeEchoFault b k s).rq.stale = s.rq.stale ∧
    (takeEchoFault b k s).rq.rxStale = s.rq.rxStale ∧
    (takeEchoFault b k s).sc.address = s.sc.address := by
  simp [takeEchoFault]

@[simp] theorem slotSent_keeps (n : SlotId) (s : State) :
    (slotSent n s).fr = s.fr ∧ (slotSent n s).rq = s.rq ∧ (slotSent n s).sc = s.sc ∧
    (slotSent n s).iu = s.iu ∧ (slotSent n s).hp = s.hp ∧ (slotSent n s).cfg = s.cfg ∧
    (slotSent n s).ctr = s.ctr ∧ (slotSent n s).resetLow = s.resetLow ∧
    (slotSent n s).pending = s.pending ∧ (slotSent n s).bp.mem = s.bp.mem ∧
    (slotSent n s).ts.queues = s.ts.queues ∧ (slotSent n s).lac.mode = s.lac.mode ∧
    (slotSent n s).lac.quiet = s.lac.quiet ∧ (slotSent n s).lac.faults = s.lac.faults ∧
    (slotSent n s).lac.offer = s.lac.offer ∧ (slotSent n s).lac.order = s.lac.order ∧
    (slotSent n s).lac.burst = s.lac.burst ∧ (slotSent n s).lac.path = s.lac.path := by
  simp only [slotSent]
  (repeat' split) <;> simp

@[simp] theorem noticeSent_keeps (s : State) :
    (noticeSent s).ts = s.ts ∧ (noticeSent s).bp = s.bp ∧ (noticeSent s).fr = s.fr ∧
    (noticeSent s).pt = s.pt ∧ (noticeSent s).sc = s.sc ∧ (noticeSent s).iu = s.iu ∧
    (noticeSent s).hp = s.hp ∧ (noticeSent s).cfg = s.cfg ∧ (noticeSent s).ctr = s.ctr ∧
    (noticeSent s).resetLow = s.resetLow ∧ (noticeSent s).pending = s.pending ∧
    (noticeSent s).lac.mode = s.lac.mode ∧ (noticeSent s).lac.quiet = s.lac.quiet ∧
    (noticeSent s).lac.faults = s.lac.faults ∧ (noticeSent s).lac.offer = s.lac.offer ∧
    (noticeSent s).lac.order = s.lac.order ∧ (noticeSent s).lac.window = s.lac.window ∧
    (noticeSent s).lac.burst = s.lac.burst ∧ (noticeSent s).lac.path = s.lac.path ∧
    (noticeSent s).rq.entries = s.rq.entries ∧ (noticeSent s).rq.paused = s.rq.paused ∧
    (noticeSent s).rq.congested = s.rq.congested ∧ (noticeSent s).rq.refused = s.rq.refused ∧
    (noticeSent s).rq.overflow = s.rq.overflow ∧ (noticeSent s).rq.drop = s.rq.drop ∧
    (noticeSent s).rq.loss = s.rq.loss ∧ (noticeSent s).rq.stale = s.rq.stale ∧
    (noticeSent s).rq.rxStale = s.rq.rxStale := by
  simp [noticeSent]

@[simp] theorem reportSent_keeps (b : BurstSource) (s : State) :
    (reportSent b s).fr = s.fr ∧ (reportSent b s).sc = s.sc ∧ (reportSent b s).iu = s.iu ∧
    (reportSent b s).hp = s.hp ∧ (reportSent b s).cfg = s.cfg ∧ (reportSent b s).ctr = s.ctr ∧
    (reportSent b s).resetLow = s.resetLow ∧ (reportSent b s).pending = s.pending ∧
    (reportSent b s).bp.mem = s.bp.mem ∧ (reportSent b s).ts.queues = s.ts.queues ∧
    (reportSent b s).lac.mode = s.lac.mode ∧ (reportSent b s).lac.quiet = s.lac.quiet ∧
    (reportSent b s).lac.faults = s.lac.faults ∧ (reportSent b s).lac.offer = s.lac.offer ∧
    (reportSent b s).lac.order = s.lac.order ∧ (reportSent b s).lac.burst = s.lac.burst ∧
    (reportSent b s).lac.path = s.lac.path ∧ (reportSent b s).rq.entries = s.rq.entries ∧
    (reportSent b s).rq.paused = s.rq.paused ∧ (reportSent b s).rq.congested = s.rq.congested ∧
    (reportSent b s).rq.refused = s.rq.refused ∧ (reportSent b s).rq.overflow = s.rq.overflow ∧
    (reportSent b s).rq.drop = s.rq.drop ∧ (reportSent b s).rq.loss = s.rq.loss ∧
    (reportSent b s).rq.stale = s.rq.stale ∧ (reportSent b s).rq.rxStale = s.rq.rxStale := by
  simp only [reportSent]
  (repeat' split) <;> simp

@[simp] theorem takeFrameEnd_keeps (b : Burst) (s : State) :
    (takeFrameEnd b s).ts = s.ts ∧ (takeFrameEnd b s).bp = s.bp ∧ (takeFrameEnd b s).rq = s.rq ∧
    (takeFrameEnd b s).pt = s.pt ∧ (takeFrameEnd b s).sc = s.sc ∧ (takeFrameEnd b s).iu = s.iu ∧
    (takeFrameEnd b s).hp = s.hp ∧ (takeFrameEnd b s).cfg = s.cfg ∧
    (takeFrameEnd b s).resetLow = s.resetLow ∧ (takeFrameEnd b s).pending = s.pending ∧
    (takeFrameEnd b s).fr.groups = s.fr.groups ∧ (takeFrameEnd b s).fr.mode = s.fr.mode ∧
    (takeFrameEnd b s).fr.record = s.fr.record ∧ (takeFrameEnd b s).lac.demoted = s.lac.demoted ∧
    (takeFrameEnd b s).lac.offer = s.lac.offer ∧ (takeFrameEnd b s).lac.order = s.lac.order ∧
    (takeFrameEnd b s).lac.window = s.lac.window ∧ (takeFrameEnd b s).lac.path = s.lac.path := by
  simp [takeFrameEnd]

@[simp] theorem allocateBody_keeps (s : State) :
    (allocateBody s).lac = s.lac ∧ (allocateBody s).fr = s.fr ∧ (allocateBody s).rq = s.rq ∧
    (allocateBody s).pt = s.pt ∧ (allocateBody s).sc = s.sc ∧ (allocateBody s).iu = s.iu ∧
    (allocateBody s).cfg = s.cfg ∧ (allocateBody s).ctr = s.ctr ∧
    (allocateBody s).resetLow = s.resetLow ∧ (allocateBody s).pending = s.pending ∧
    (allocateBody s).ts.queues = s.ts.queues ∧ (allocateBody s).ts.completion = s.ts.completion ∧
    (allocateBody s).bp.mem = s.bp.mem ∧ (allocateBody s).hp.args = s.hp.args ∧
    (allocateBody s).hp.cmd = s.hp.cmd ∧ (allocateBody s).hp.winSel = s.hp.winSel ∧
    (allocateBody s).hp.winOfs = s.hp.winOfs := by
  simp only [allocateBody]
  (repeat' split) <;> simp

@[simp] theorem submitBody_keeps (s : State) :
    (submitBody s).bp = s.bp ∧ (submitBody s).fr = s.fr ∧ (submitBody s).rq = s.rq ∧
    (submitBody s).sc = s.sc ∧ (submitBody s).iu = s.iu ∧ (submitBody s).cfg = s.cfg ∧
    (submitBody s).ctr = s.ctr ∧ (submitBody s).resetLow = s.resetLow ∧
    (submitBody s).pending = s.pending ∧ (submitBody s).lac.mode = s.lac.mode ∧
    (submitBody s).lac.quiet = s.lac.quiet ∧ (submitBody s).lac.demoted = s.lac.demoted ∧
    (submitBody s).lac.faults = s.lac.faults ∧ (submitBody s).lac.order = s.lac.order ∧
    (submitBody s).lac.window = s.lac.window ∧ (submitBody s).lac.burst = s.lac.burst ∧
    (submitBody s).lac.path = s.lac.path ∧ (submitBody s).ts.completion = s.ts.completion ∧
    (submitBody s).hp.args = s.hp.args ∧ (submitBody s).hp.cmd = s.hp.cmd ∧
    (submitBody s).hp.winSel = s.hp.winSel ∧ (submitBody s).hp.winOfs = s.hp.winOfs := by
  simp only [submitBody]
  (repeat' split) <;> simp

@[simp] theorem abortSlot_keeps (n : SlotId) (sl : Slot) (s : State) :
    (abortSlot n sl s).sc = s.sc ∧ (abortSlot n sl s).cfg = s.cfg ∧
    (abortSlot n sl s).resetLow = s.resetLow ∧ (abortSlot n sl s).pending = s.pending ∧
    (abortSlot n sl s).bp.mem = s.bp.mem ∧ (abortSlot n sl s).fr.groups = s.fr.groups ∧
    (abortSlot n sl s).rq.paused = s.rq.paused ∧ (abortSlot n sl s).rq.notice = s.rq.notice ∧
    (abortSlot n sl s).iu.inten = s.iu.inten ∧ (abortSlot n sl s).hp.args = s.hp.args ∧
    (abortSlot n sl s).hp.cmd = s.hp.cmd ∧ (abortSlot n sl s).lac.faults = s.lac.faults := by
  simp only [abortSlot]
  (repeat' split) <;> simp

@[simp] theorem abortBody_keeps (s : State) :
    (abortBody s).sc = s.sc ∧ (abortBody s).cfg = s.cfg ∧ (abortBody s).resetLow = s.resetLow ∧
    (abortBody s).pending = s.pending ∧ (abortBody s).bp.mem = s.bp.mem ∧
    (abortBody s).fr.groups = s.fr.groups ∧ (abortBody s).rq.paused = s.rq.paused ∧
    (abortBody s).rq.notice = s.rq.notice ∧ (abortBody s).iu.inten = s.iu.inten ∧
    (abortBody s).hp.args = s.hp.args ∧ (abortBody s).hp.cmd = s.hp.cmd ∧
    (abortBody s).lac.faults = s.lac.faults := by
  simp only [abortBody]
  (repeat' split) <;> simp

@[simp] theorem collectBody_keeps (s : State) :
    (collectBody s).lac = s.lac ∧ (collectBody s).bp = s.bp ∧ (collectBody s).fr = s.fr ∧
    (collectBody s).rq = s.rq ∧ (collectBody s).pt = s.pt ∧ (collectBody s).sc = s.sc ∧
    (collectBody s).iu = s.iu ∧ (collectBody s).cfg = s.cfg ∧ (collectBody s).ctr = s.ctr ∧
    (collectBody s).resetLow = s.resetLow ∧ (collectBody s).pending = s.pending ∧
    (collectBody s).ts.queues = s.ts.queues ∧ (collectBody s).hp.args = s.hp.args ∧
    (collectBody s).hp.cmd = s.hp.cmd ∧ (collectBody s).hp.winSel = s.hp.winSel ∧
    (collectBody s).hp.winOfs = s.hp.winOfs := by
  simp only [collectBody]
  (repeat' split) <;> simp

@[simp] theorem releaseBody_keeps (s : State) :
    (releaseBody s).fr = s.fr ∧ (releaseBody s).sc = s.sc ∧ (releaseBody s).cfg = s.cfg ∧
    (releaseBody s).ctr = s.ctr ∧ (releaseBody s).resetLow = s.resetLow ∧
    (releaseBody s).pending = s.pending ∧ (releaseBody s).lac.mode = s.lac.mode ∧
    (releaseBody s).lac.quiet = s.lac.quiet ∧ (releaseBody s).lac.demoted = s.lac.demoted ∧
    (releaseBody s).lac.faults = s.lac.faults ∧ (releaseBody s).lac.order = s.lac.order ∧
    (releaseBody s).lac.window = s.lac.window ∧ (releaseBody s).lac.burst = s.lac.burst ∧
    (releaseBody s).lac.path = s.lac.path ∧ (releaseBody s).ts.queues = s.ts.queues ∧
    (releaseBody s).ts.completion = s.ts.completion ∧ (releaseBody s).bp.mem = s.bp.mem ∧
    (releaseBody s).rq.paused = s.rq.paused ∧ (releaseBody s).rq.drop = s.rq.drop ∧
    (releaseBody s).rq.loss = s.rq.loss ∧ (releaseBody s).iu.inten = s.iu.inten ∧
    (releaseBody s).hp.args = s.hp.args ∧ (releaseBody s).hp.cmd = s.hp.cmd := by
  simp only [releaseBody]
  (repeat' split) <;> simp

@[simp] theorem flushBody_keeps (s : State) :
    (flushBody s).fr = s.fr ∧ (flushBody s).sc = s.sc ∧ (flushBody s).cfg = s.cfg ∧
    (flushBody s).ctr = s.ctr ∧ (flushBody s).resetLow = s.resetLow ∧
    (flushBody s).pending = s.pending ∧ (flushBody s).lac.mode = s.lac.mode ∧
    (flushBody s).lac.quiet = s.lac.quiet ∧ (flushBody s).lac.demoted = s.lac.demoted ∧
    (flushBody s).lac.faults = s.lac.faults ∧ (flushBody s).lac.order = s.lac.order ∧
    (flushBody s).lac.window = s.lac.window ∧ (flushBody s).lac.burst = s.lac.burst ∧
    (flushBody s).lac.path = s.lac.path ∧ (flushBody s).ts.queues = s.ts.queues ∧
    (flushBody s).ts.completion = s.ts.completion ∧ (flushBody s).bp.mem = s.bp.mem ∧
    (flushBody s).rq.paused = s.rq.paused ∧ (flushBody s).rq.drop = s.rq.drop ∧
    (flushBody s).rq.loss = s.rq.loss ∧ (flushBody s).iu.inten = s.iu.inten ∧
    (flushBody s).hp.args = s.hp.args ∧ (flushBody s).hp.cmd = s.hp.cmd := by
  simp only [flushBody]
  (repeat' split) <;> simp

@[simp] theorem pauseBody_keeps (s : State) :
    (pauseBody s).lac = s.lac ∧ (pauseBody s).ts = s.ts ∧ (pauseBody s).bp = s.bp ∧
    (pauseBody s).fr = s.fr ∧ (pauseBody s).pt = s.pt ∧ (pauseBody s).sc = s.sc ∧
    (pauseBody s).iu = s.iu ∧ (pauseBody s).cfg = s.cfg ∧ (pauseBody s).ctr = s.ctr ∧
    (pauseBody s).resetLow = s.resetLow ∧ (pauseBody s).pending = s.pending ∧
    (pauseBody s).rq.entries = s.rq.entries ∧ (pauseBody s).hp.args = s.hp.args ∧
    (pauseBody s).hp.cmd = s.hp.cmd ∧ (pauseBody s).hp.winSel = s.hp.winSel ∧
    (pauseBody s).hp.winOfs = s.hp.winOfs := by
  simp [pauseBody]

@[simp] theorem resumeBody_keeps (s : State) :
    (resumeBody s).bp = s.bp ∧ (resumeBody s).fr = s.fr ∧ (resumeBody s).sc = s.sc ∧
    (resumeBody s).iu = s.iu ∧ (resumeBody s).cfg = s.cfg ∧ (resumeBody s).ctr = s.ctr ∧
    (resumeBody s).resetLow = s.resetLow ∧ (resumeBody s).pending = s.pending ∧
    (resumeBody s).lac.mode = s.lac.mode ∧ (resumeBody s).lac.quiet = s.lac.quiet ∧
    (resumeBody s).lac.demoted = s.lac.demoted ∧ (resumeBody s).lac.faults = s.lac.faults ∧
    (resumeBody s).lac.order = s.lac.order ∧ (resumeBody s).lac.window = s.lac.window ∧
    (resumeBody s).lac.burst = s.lac.burst ∧ (resumeBody s).lac.path = s.lac.path ∧
    (resumeBody s).ts.queues = s.ts.queues ∧ (resumeBody s).ts.completion = s.ts.completion ∧
    (resumeBody s).rq.entries = s.rq.entries ∧ (resumeBody s).rq.congested = s.rq.congested ∧
    (resumeBody s).rq.drop = s.rq.drop ∧ (resumeBody s).rq.loss = s.rq.loss ∧
    (resumeBody s).hp.args = s.hp.args ∧ (resumeBody s).hp.cmd = s.hp.cmd ∧
    (resumeBody s).hp.winSel = s.hp.winSel ∧ (resumeBody s).hp.winOfs = s.hp.winOfs := by
  simp only [resumeBody]
  (repeat' split) <;> simp

@[simp] theorem forgetBody_keeps (s : State) :
    (forgetBody s).bp = s.bp ∧ (forgetBody s).fr = s.fr ∧ (forgetBody s).rq = s.rq ∧
    (forgetBody s).sc = s.sc ∧ (forgetBody s).cfg = s.cfg ∧ (forgetBody s).ctr = s.ctr ∧
    (forgetBody s).resetLow = s.resetLow ∧ (forgetBody s).pending = s.pending ∧
    (forgetBody s).lac.mode = s.lac.mode ∧ (forgetBody s).lac.quiet = s.lac.quiet ∧
    (forgetBody s).lac.demoted = s.lac.demoted ∧ (forgetBody s).lac.faults = s.lac.faults ∧
    (forgetBody s).lac.order = s.lac.order ∧ (forgetBody s).lac.window = s.lac.window ∧
    (forgetBody s).lac.burst = s.lac.burst ∧ (forgetBody s).lac.path = s.lac.path ∧
    (forgetBody s).ts.queues = s.ts.queues ∧ (forgetBody s).ts.completion = s.ts.completion ∧
    (forgetBody s).iu.inten = s.iu.inten ∧ (forgetBody s).hp.args = s.hp.args ∧
    (forgetBody s).hp.cmd = s.hp.cmd ∧ (forgetBody s).hp.winSel = s.hp.winSel ∧
    (forgetBody s).hp.winOfs = s.hp.winOfs := by
  simp only [forgetBody]
  (repeat' split) <;> simp

@[simp] theorem queryPeerBody_keeps (s : State) :
    (queryPeerBody s).lac = s.lac ∧ (queryPeerBody s).ts = s.ts ∧ (queryPeerBody s).bp = s.bp ∧
    (queryPeerBody s).fr = s.fr ∧ (queryPeerBody s).rq = s.rq ∧ (queryPeerBody s).pt = s.pt ∧
    (queryPeerBody s).sc = s.sc ∧ (queryPeerBody s).iu = s.iu ∧ (queryPeerBody s).cfg = s.cfg ∧
    (queryPeerBody s).ctr = s.ctr ∧ (queryPeerBody s).resetLow = s.resetLow ∧
    (queryPeerBody s).pending = s.pending ∧ (queryPeerBody s).hp.args = s.hp.args ∧
    (queryPeerBody s).hp.cmd = s.hp.cmd ∧ (queryPeerBody s).hp.winSel = s.hp.winSel ∧
    (queryPeerBody s).hp.winOfs = s.hp.winOfs := by
  simp only [queryPeerBody]
  (repeat' split) <;> simp

@[simp] theorem joinBody_keeps (s : State) :
    (joinBody s).lac = s.lac ∧ (joinBody s).ts = s.ts ∧ (joinBody s).bp = s.bp ∧
    (joinBody s).rq = s.rq ∧ (joinBody s).pt = s.pt ∧ (joinBody s).sc = s.sc ∧
    (joinBody s).iu = s.iu ∧ (joinBody s).cfg = s.cfg ∧ (joinBody s).ctr = s.ctr ∧
    (joinBody s).resetLow = s.resetLow ∧ (joinBody s).pending = s.pending ∧
    (joinBody s).fr.mode = s.fr.mode ∧ (joinBody s).fr.guard = s.fr.guard ∧
    (joinBody s).fr.record = s.fr.record ∧ (joinBody s).hp.args = s.hp.args ∧
    (joinBody s).hp.cmd = s.hp.cmd ∧ (joinBody s).hp.winSel = s.hp.winSel ∧
    (joinBody s).hp.winOfs = s.hp.winOfs := by
  simp only [joinBody]
  (repeat' split) <;> simp

@[simp] theorem leaveBody_keeps (s : State) :
    (leaveBody s).lac = s.lac ∧ (leaveBody s).ts = s.ts ∧ (leaveBody s).bp = s.bp ∧
    (leaveBody s).rq = s.rq ∧ (leaveBody s).pt = s.pt ∧ (leaveBody s).sc = s.sc ∧
    (leaveBody s).iu = s.iu ∧ (leaveBody s).cfg = s.cfg ∧ (leaveBody s).ctr = s.ctr ∧
    (leaveBody s).resetLow = s.resetLow ∧ (leaveBody s).pending = s.pending ∧
    (leaveBody s).fr.mode = s.fr.mode ∧ (leaveBody s).fr.guard = s.fr.guard ∧
    (leaveBody s).fr.record = s.fr.record ∧ (leaveBody s).hp.args = s.hp.args ∧
    (leaveBody s).hp.cmd = s.hp.cmd ∧ (leaveBody s).hp.winSel = s.hp.winSel ∧
    (leaveBody s).hp.winOfs = s.hp.winOfs := by
  simp only [leaveBody]
  (repeat' split) <;> simp

@[simp] theorem goOnlineChange_keeps (s : State) :
    (goOnlineChange s).iu = s.iu ∧ (goOnlineChange s).hp = s.hp ∧ (goOnlineChange s).cfg = s.cfg ∧
    (goOnlineChange s).ctr = s.ctr ∧ (goOnlineChange s).resetLow = s.resetLow ∧
    (goOnlineChange s).pending = s.pending ∧ (goOnlineChange s).bp.mem = s.bp.mem ∧
    (goOnlineChange s).fr.groups = s.fr.groups ∧ (goOnlineChange s).rq.entries = s.rq.entries ∧
    (goOnlineChange s).sc.address = s.sc.address ∧
    (goOnlineChange s).sc.faultEvent = s.sc.faultEvent := by
  simp only [goOnlineChange]
  (repeat' split) <;> simp

@[simp] theorem goOnlineBody_keeps (s : State) :
    (goOnlineBody s).iu = s.iu ∧ (goOnlineBody s).cfg = s.cfg ∧ (goOnlineBody s).ctr = s.ctr ∧
    (goOnlineBody s).resetLow = s.resetLow ∧ (goOnlineBody s).pending = s.pending ∧
    (goOnlineBody s).bp.mem = s.bp.mem ∧ (goOnlineBody s).fr.groups = s.fr.groups ∧
    (goOnlineBody s).rq.entries = s.rq.entries ∧ (goOnlineBody s).sc.address = s.sc.address ∧
    (goOnlineBody s).sc.faultEvent = s.sc.faultEvent ∧ (goOnlineBody s).hp.args = s.hp.args ∧
    (goOnlineBody s).hp.cmd = s.hp.cmd ∧ (goOnlineBody s).hp.winSel = s.hp.winSel ∧
    (goOnlineBody s).hp.winOfs = s.hp.winOfs := by
  simp only [goOnlineBody]
  (repeat' split) <;> simp

@[simp] theorem goListenBody_keeps (s : State) :
    (goListenBody s).iu = s.iu ∧ (goListenBody s).cfg = s.cfg ∧ (goListenBody s).ctr = s.ctr ∧
    (goListenBody s).resetLow = s.resetLow ∧ (goListenBody s).pending = s.pending ∧
    (goListenBody s).bp.mem = s.bp.mem ∧ (goListenBody s).fr.groups = s.fr.groups ∧
    (goListenBody s).rq.entries = s.rq.entries ∧ (goListenBody s).sc.address = s.sc.address ∧
    (goListenBody s).sc.faultEvent = s.sc.faultEvent ∧ (goListenBody s).hp.args = s.hp.args ∧
    (goListenBody s).hp.cmd = s.hp.cmd ∧ (goListenBody s).hp.winSel = s.hp.winSel ∧
    (goListenBody s).hp.winOfs = s.hp.winOfs := by
  simp only [goListenBody]
  (repeat' split) <;> simp

@[simp] theorem goLoopBody_keeps (s : State) :
    (goLoopBody s).bp = s.bp ∧ (goLoopBody s).rq = s.rq ∧ (goLoopBody s).iu = s.iu ∧
    (goLoopBody s).cfg = s.cfg ∧ (goLoopBody s).ctr = s.ctr ∧
    (goLoopBody s).resetLow = s.resetLow ∧ (goLoopBody s).pending = s.pending ∧
    (goLoopBody s).ts.queues = s.ts.queues ∧ (goLoopBody s).ts.completion = s.ts.completion ∧
    (goLoopBody s).fr.groups = s.fr.groups ∧ (goLoopBody s).sc.address = s.sc.address ∧
    (goLoopBody s).sc.faultEvent = s.sc.faultEvent ∧ (goLoopBody s).hp.args = s.hp.args ∧
    (goLoopBody s).hp.cmd = s.hp.cmd ∧ (goLoopBody s).hp.winSel = s.hp.winSel ∧
    (goLoopBody s).hp.winOfs = s.hp.winOfs := by
  simp only [goLoopBody]
  (repeat' split) <;> simp

@[simp] theorem goOfflineBody_keeps (s : State) :
    (goOfflineBody s).iu = s.iu ∧ (goOfflineBody s).cfg = s.cfg ∧ (goOfflineBody s).ctr = s.ctr ∧
    (goOfflineBody s).resetLow = s.resetLow ∧ (goOfflineBody s).pending = s.pending ∧
    (goOfflineBody s).bp.mem = s.bp.mem ∧ (goOfflineBody s).fr.groups = s.fr.groups ∧
    (goOfflineBody s).rq.entries = s.rq.entries ∧ (goOfflineBody s).sc.address = s.sc.address ∧
    (goOfflineBody s).sc.faultEvent = s.sc.faultEvent ∧ (goOfflineBody s).hp.args = s.hp.args ∧
    (goOfflineBody s).hp.cmd = s.hp.cmd ∧ (goOfflineBody s).hp.winSel = s.hp.winSel ∧
    (goOfflineBody s).hp.winOfs = s.hp.winOfs := by
  simp only [goOfflineBody]
  (repeat' split) <;> simp

@[simp] theorem setAddressBody_keeps (s : State) :
    (setAddressBody s).lac = s.lac ∧ (setAddressBody s).ts = s.ts ∧ (setAddressBody s).bp = s.bp ∧
    (setAddressBody s).fr = s.fr ∧ (setAddressBody s).rq = s.rq ∧ (setAddressBody s).pt = s.pt ∧
    (setAddressBody s).iu = s.iu ∧ (setAddressBody s).cfg = s.cfg ∧
    (setAddressBody s).ctr = s.ctr ∧ (setAddressBody s).resetLow = s.resetLow ∧
    (setAddressBody s).pending = s.pending ∧ (setAddressBody s).sc.station = s.sc.station ∧
    (setAddressBody s).sc.faultEvent = s.sc.faultEvent ∧ (setAddressBody s).hp.args = s.hp.args ∧
    (setAddressBody s).hp.cmd = s.hp.cmd ∧ (setAddressBody s).hp.winSel = s.hp.winSel ∧
    (setAddressBody s).hp.winOfs = s.hp.winOfs := by
  simp only [setAddressBody]
  (repeat' split) <;> simp

@[simp] theorem clearCountersBody_keeps (s : State) :
    (clearCountersBody s).lac = s.lac ∧ (clearCountersBody s).ts = s.ts ∧
    (clearCountersBody s).bp = s.bp ∧ (clearCountersBody s).fr = s.fr ∧
    (clearCountersBody s).rq = s.rq ∧ (clearCountersBody s).pt = s.pt ∧
    (clearCountersBody s).sc = s.sc ∧ (clearCountersBody s).iu = s.iu ∧
    (clearCountersBody s).cfg = s.cfg ∧ (clearCountersBody s).resetLow = s.resetLow ∧
    (clearCountersBody s).pending = s.pending ∧ (clearCountersBody s).hp.args = s.hp.args ∧
    (clearCountersBody s).hp.cmd = s.hp.cmd ∧ (clearCountersBody s).hp.winSel = s.hp.winSel ∧
    (clearCountersBody s).hp.winOfs = s.hp.winOfs := by
  simp [clearCountersBody]

end Sys2Proof.Machine
end

