-- ==== Sys2Proof/Laws/Scheduler.lean ====
section
/-! SUPPORT. What the Transmit Scheduler's re-evaluation and the build of a READY notice can do, each said
once. -/

namespace Sys2Proof.Machine

open Sys2Proof

/-- The first eligible slot of a class stands in its queue and is eligible. -/
theorem firstEligible_mem (s : State) (c : Sys2Proof.Class) (o : Offer) (h : firstEligible s c = some o) :
    ∃ n, o = .slot n ∧ n ∈ s.ts.queues.get c ∧ eligible s n = true := by
  simp only [firstEligible, Option.map_eq_some_iff] at h
  obtain ⟨n, h1, rfl⟩ := h
  exact ⟨n, rfl, List.mem_of_find?_eq_some h1, List.find?_some h1⟩

/-- A slot that is chosen as the offer is eligible. -/
theorem chooseOffer_slot (s : State) (n : SlotId) (h : chooseOffer s = some (.slot n)) :
    eligible s n = true := by
  have key : ∀ c, firstEligible s c = some (.slot n) → eligible s n = true := by
    intro c hc
    obtain ⟨m, e, _, he⟩ := firstEligible_mem s c _ hc
    cases e; exact he
  unfold chooseOffer at h
  cases h0 : firstEligible s .urgent with
  | some o => simp [h0] at h; subst h; exact key _ h0
  | none =>
    cases h1 : (if noticeEligible s then some Offer.notice else none) with
    | some o =>
      simp only [h0, h1] at h
      split at h1 <;> simp_all
    | none =>
      cases h2 : firstEligible s .control with
      | some o => simp [h0, h1, h2] at h; subst h; exact key _ h2
      | none =>
        cases h3 : firstEligible s .normal with
        | some o => simp [h0, h1, h2, h3] at h; subst h; exact key _ h3
        | none => simp [h0, h1, h2, h3] at h; exact key _ h

/-- An eligible slot stands in QUEUED or OFFERED (R71). -/
theorem eligible_waits {s : State} {n : SlotId} (h : eligible s n = true) :
    ∃ sl, slotAt s n = some sl ∧ (sl.phase = .queued ∨ sl.phase = .offered) := by
  unfold eligible at h
  cases hs : slotAt s n with
  | none => simp [hs] at h
  | some sl => simp [hs] at h; exact ⟨sl, rfl, by simpa using h.1.1⟩

/-- Everything a withdrawal of the offer can do (R75). -/
theorem withdrawOffer_spec (s : State) : SameButOffer s (withdrawOffer s) ∧ (withdrawOffer s).lac.offer = none := by
  unfold withdrawOffer
  split
  · next h => exact ⟨⟨fun _ => rfl, rfl⟩, h⟩
  · exact ⟨⟨fun _ => rfl, rfl⟩, rfl⟩
  · next n h =>
    simp only [slotWhen]
    cases hs : slotAt s n with
    | none => exact ⟨⟨fun _ => rfl, rfl⟩, rfl⟩
    | some sl =>
      by_cases hp : sl.phase = .offered
      · have e : (Option.some sl).filter (fun sl => decide (sl.phase = .offered)) = some sl := by
          simp [Option.filter, hp]
        rw [e]
        have hset : ∀ m, (slotAt (setSlot n (some { sl with phase := .queued }) s) m).map Slot.settled
            = (slotAt s m).map Slot.settled := by
          intro m
          rw [slotAt_setSlot]
          split
          · next e => subst e; simp [hs, Slot.settled, hp]
          · rfl
        simp only [clearActive]
        split
        · exact ⟨⟨hset, rfl⟩, rfl⟩
        · exact ⟨⟨hset, rfl⟩, rfl⟩
      · have e : (Option.some sl).filter (fun sl => decide (sl.phase = .offered)) = none := by
          simp [Option.filter, hp]
        rw [e]
        exact ⟨⟨fun _ => rfl, rfl⟩, rfl⟩

/-- Preparing the peer entry changes the peer table alone (R142). -/
theorem preparePeer_spec (o : Offer) (s : State) : preparePeer o s = { s with pt := (preparePeer o s).pt } := by
  unfold preparePeer
  split
  · rfl
  · split
    · rfl
    · split <;> rfl

/-- Everything the installation of an offer can do (R75). -/
theorem installOffer_spec (o : Offer) (s : State)
    (h : ∀ n, o = .slot n → ∃ sl, slotAt s n = some sl ∧ (sl.phase = .queued ∨ sl.phase = .offered)) :
    SameButOffer s (installOffer o s) ∧ (installOffer o s).lac.offer = some o := by
  unfold installOffer
  cases o with
  | notice => exact ⟨⟨fun _ => rfl, rfl⟩, rfl⟩
  | slot n =>
    obtain ⟨sl, hs, hp⟩ := h n rfl
    have hset : ∀ m, (slotAt (setSlot n (some { sl with phase := .offered }) s) m).map Slot.settled
        = (slotAt s m).map Slot.settled := by
      intro m
      rw [slotAt_setSlot]
      split
      · next e => subst e; rcases hp with hp | hp <;> simp [hs, Slot.settled, hp]
      · rfl
    simp only [hs]
    split
    · exact ⟨⟨hset, rfl⟩, rfl⟩
    · exact ⟨⟨hset, rfl⟩, rfl⟩

/-- The relation chains. -/
theorem SameButOffer.trans {a b c : State} (h : SameButOffer a b) (k : SameButOffer b c) : SameButOffer a c := by
  refine ⟨fun n => (k.1 n).trans (h.1 n), ?_⟩
  rw [k.2, h.2]

/-- A slot that waits still waits after a change of the offer alone. -/
theorem settled_waits {a b : Option Slot} (h : b.map Slot.settled = a.map Slot.settled)
    (k : ∃ sl, a = some sl ∧ (sl.phase = .queued ∨ sl.phase = .offered)) :
    ∃ sl, b = some sl ∧ (sl.phase = .queued ∨ sl.phase = .offered) := by
  obtain ⟨sl, rfl, hp⟩ := k
  cases b with
  | none => simp at h
  | some tl =>
    refine ⟨tl, rfl, ?_⟩
    simp only [Option.map_some, Option.some.injEq] at h
    have := congrArg Slot.phase h
    rcases hp with hp | hp <;> simp [Slot.settled, hp] at this <;> by_cases q : tl.phase = .offered <;> simp_all

/-- Everything the presentation of an offer can do (R75). -/
theorem presentOffer_spec (o : Offer) (s : State)
    (h : ∀ n, o = .slot n → ∃ sl, slotAt s n = some sl ∧ (sl.phase = .queued ∨ sl.phase = .offered)) :
    SameButOffer s (presentOffer o s) ∧ (presentOffer o s).lac.offer = some o := by
  unfold presentOffer
  have h0 : SameButOffer s (preparePeer o s) := ⟨fun _ => by rw [preparePeer_spec]; rfl, by rw [preparePeer_spec]⟩
  have h1 := withdrawOffer_spec (preparePeer o s)
  have h01 := h0.trans h1.1
  have h2 := installOffer_spec o (withdrawOffer (preparePeer o s)) (fun n e => settled_waits (h01.1 n) (h n e))
  exact ⟨h01.trans h2.1, h2.2⟩

/-- A change of the offer leaves the kind and the destination of a slot. -/
@[simp] theorem Slot.afterOffer_kind (old new : Option Offer) (n : SlotId) (sl : Slot) :
    (Slot.afterOffer old new n sl).kind = sl.kind := by
  unfold Slot.afterOffer; split <;> [rfl; split <;> rfl]

@[simp] theorem Slot.afterOffer_dest (old new : Option Offer) (n : SlotId) (sl : Slot) :
    (Slot.afterOffer old new n sl).dest = sl.dest := by
  unfold Slot.afterOffer; split <;> [rfl; split <;> rfl]

/-- The slots after a withdrawal of the offer (R75). -/
theorem withdrawOffer_slotAt (s : State) (m : SlotId) :
    slotAt (withdrawOffer s) m = (slotAt s m).map (Slot.afterOffer s.lac.offer none m) := by
  have keep : ∀ x : Option Slot, (∀ sl, x = some sl → Slot.afterOffer s.lac.offer none m sl = sl) →
      x = x.map (Slot.afterOffer s.lac.offer none m) := by
    intro x hx
    cases x with
    | none => rfl
    | some sl => rw [Option.map_some, hx sl rfl]
  unfold withdrawOffer
  split
  · next h => exact keep _ fun sl _ => by simp [Slot.afterOffer, h]
  · next h => exact keep _ fun sl _ => by simp [Slot.afterOffer, h]
  · next n h =>
    simp only [slotWhen]
    cases hs : slotAt s n with
    | none =>
      refine keep _ fun sl e => ?_
      have : n ≠ m := by rintro rfl; simp [slotAt] at hs e; simp [hs] at e
      simp [Slot.afterOffer, h, this]
    | some sl =>
      by_cases hp : sl.phase = .offered
      · simp only [Option.filter, hp, decide_true, if_true]
        have hset : slotAt (setSlot n (some { sl with phase := .queued })
              { s with lac := { s.lac with offer := none } }) m
            = (slotAt s m).map (Slot.afterOffer s.lac.offer none m) := by
          rw [slotAt_setSlot]
          split
          · next e => subst e; simp [hs, Slot.afterOffer, h, hp]
          · next e =>
            refine keep (slotAt s m) fun sl' _ => ?_
            have : n ≠ m := fun q => e (by simp [q])
            simp [Slot.afterOffer, h, this]
        unfold clearActive
        split <;> exact hset
      · simp only [Option.filter, hp, decide_false, Bool.false_eq_true, if_false]
        refine keep _ fun sl' e => ?_
        by_cases q : n = m
        · subst q
          have : sl' = sl := by
            have e2 : slotAt s n = some sl' := e
            rw [hs] at e2
            exact (Option.some.inj e2).symm
          subst this
          simp [Slot.afterOffer, h, hp]
        · simp [Slot.afterOffer, h, q]

/-- The peer table after a withdrawal of the offer (R75). -/
theorem withdrawOffer_pt (s : State) :
    (withdrawOffer s).pt = match releasedPeer s with
      | none => s.pt
      | some d => s.pt.map fun p => if p.node = d then { p with active := false } else p := by
  unfold withdrawOffer releasedPeer
  split
  · next h => simp [h]
  · next h => simp [h]
  · next n h =>
    simp only [slotWhen, h]
    cases hs : slotAt s n with
    | none => simp
    | some sl =>
      by_cases hp : sl.phase = .offered
      · cases hk : sl.kind <;> simp [Option.filter, hp, hk, clearActive, withPeer, modifyPeer]
      · simp [Option.filter, hp]

/-- The peer table after an offer is installed (R75, R140). -/
theorem installOffer_pt (o : Offer) (s : State) :
    (installOffer o s).pt = match offeredPeer s (some o) with
      | none => s.pt
      | some d =>
        match s.pt.find? fun p => p.node == d with
        | none => s.pt
        | some p => { p with active := true } :: s.pt.filter fun q => q.node ≠ d := by
  unfold installOffer offeredPeer
  cases o with
  | notice => rfl
  | slot n =>
    cases hs : slotAt s n with
    | none => simp [hs]
    | some sl =>
      cases hk : sl.kind with
      | datagram => simp [hs, hk]
      | data =>
        simp only [hs, hk, Option.bind_some, if_true]
        unfold touchPeer findPeer modifyPeer removePeer
        cases hf : s.pt.find? fun p => p.node == sl.dest with
        | none =>
          have none_of : ∀ p ∈ s.pt, ¬ p.node = sl.dest := by simpa using hf
          simp only [setSlot_pt, hf]
          refine (List.map_congr_left fun p hp => ?_).trans (List.map_id _)
          simp [none_of p hp]
        | some p =>
          have hp : p.node = sl.dest := by simpa using List.find?_some hf
          simp only [setSlot_pt, hf, List.map_cons, hp, if_true]
          congr 1
          refine (List.map_congr_left fun q hq => ?_).trans (List.map_id _)
          have : ¬ q.node = sl.dest := by simpa using (List.mem_filter.mp hq).2
          simp [this]

/-- The slots after an offer is installed (R75). -/
theorem installOffer_slotAt (o : Offer) (s : State) (m : SlotId) :
    slotAt (installOffer o s) m =
      (slotAt s m).map fun sl => if o = .slot m then { sl with phase := .offered } else sl := by
  unfold installOffer
  cases o with
  | notice => simp [slotAt]
  | slot n =>
    cases hs : slotAt s n with
    | none =>
      simp only [hs]
      change slotAt s m = _
      by_cases q : n = m
      · subst q; simp [hs]
      · simp [q]
    | some sl =>
      have hset : slotAt (setSlot n (some { sl with phase := .offered })
            { s with lac := { s.lac with offer := some (.slot n) } }) m
          = (slotAt s m).map fun sl => if Offer.slot n = .slot m then { sl with phase := .offered } else sl := by
        rw [slotAt_setSlot]
        by_cases q : n = m
        · subst q; simp [hs]
        · simp [q, slotAt]
      simp only [hs]
      split <;> exact hset

/-- The peer entry prepared for an offer (R142). -/
theorem preparePeer_pt (o : Offer) (s : State) :
    (preparePeer o s).pt = match offeredPeer s (some o) with
      | none => s.pt
      | some d => (ensurePeer (freshPeer s) d s.pt).getD s.pt := by
  unfold preparePeer offeredPeer
  cases o with
  | notice => rfl
  | slot n =>
    cases hs : slotAt s n with
    | none => simp [hs]
    | some sl => cases hk : sl.kind <;> simp [hs, hk]

/-- The peer table after an offer is presented (R75, R140, R142). -/
theorem presentOffer_pt (o : Offer) (s : State) :
    (presentOffer o s).pt = peersAfterOffer s (some o) := by
  have h1 : offeredPeer (withdrawOffer (preparePeer o s)) (some o) = offeredPeer s (some o) := by
    cases o with
    | notice => rfl
    | slot n =>
      simp only [offeredPeer, withdrawOffer_slotAt]
      rw [preparePeer_spec]
      change (Option.map _ (slotAt s n)).bind _ = _
      cases slotAt s n <;> simp
  have h2 : releasedPeer (preparePeer o s) = releasedPeer s := by rw [preparePeer_spec]; rfl
  unfold presentOffer peersAfterOffer
  rw [installOffer_pt, h1, withdrawOffer_pt, h2, preparePeer_pt] <;>
    cases offeredPeer s (some o) <;> cases releasedPeer s <;> rfl

/-- The slots after an offer is presented (R75). -/
theorem presentOffer_slotAt (o : Offer) (s : State) (m : SlotId) :
    slotAt (presentOffer o s) m = (slotAt s m).map (Slot.afterOffer s.lac.offer (some o) m) := by
  unfold presentOffer
  rw [installOffer_slotAt, withdrawOffer_slotAt, preparePeer_spec]
  change Option.map _ (Option.map (Slot.afterOffer s.lac.offer none m) (slotAt s m)) = _
  cases slotAt s m with
  | none => rfl
  | some sl =>
    simp only [Option.map_some, Option.some.injEq, Slot.afterOffer]
    by_cases h1 : o = .slot m
    · simp only [h1, if_true]
      by_cases h2 : s.lac.offer = some (.slot m) ∧ sl.phase = .offered
      · simp [h2]
      · simp only [h2, if_false]; simp
    · simp only [h1, if_false]; simp

/-- Everything a re-evaluation can do (R73 to R75). -/
theorem reevaluate_spec (s : State) : Reevaluated s (reevaluate s) := by
  unfold Reevaluated reevaluate
  split
  · exact ⟨⟨fun _ => rfl, rfl⟩, rfl, fun _ => rfl, fun h => absurd rfl h⟩
  · split
    · next h =>
      rw [h]
      obtain ⟨h1, h2⟩ := withdrawOffer_spec s
      refine ⟨h1, h2, fun e => ?_, fun _ => ⟨fun n => ?_, ?_⟩⟩
      · rw [h2] at e
        simp [withdrawOffer, ← e]
      · rw [h2]; exact withdrawOffer_slotAt s n
      · rw [h2, withdrawOffer_pt]
        rfl
    · next o h =>
      rw [h]
      split
      · next h' => exact ⟨⟨fun _ => rfl, rfl⟩, h', fun _ => rfl, fun q => absurd rfl q⟩
      · next h' =>
        obtain ⟨h1, h2⟩ := presentOffer_spec o s (by
          intro n e
          subst e
          exact eligible_waits (chooseOffer_slot s n h))
        refine ⟨h1, h2, fun e => absurd (h2 ▸ e).symm h', fun _ => ⟨fun n => ?_, ?_⟩⟩
        · rw [h2]; exact presentOffer_slotAt o s n
        · rw [h2]; exact presentOffer_pt o s

/-- The results of a command do not bear on a re-evaluation. -/
theorem Reevaluated.answer {u t : State} (c : Cst) (r : Quad) (h : Reevaluated u t) :
    Reevaluated (Machine.answer c r u) (Machine.answer c r t) := by
  obtain ⟨⟨h1, h2⟩, h3, h4, h5⟩ := h
  exact ⟨⟨h1, congrArg (Machine.answer c r) h2⟩, h3, fun e => congrArg (Machine.answer c r) (h4 e), h5⟩

/-- What is built from the refused list, or nothing (R128). -/
theorem buildContents_eq_none {s : State} :
    buildContents s = none ↔ s.rq.refused = [] ∧ s.rq.overflow = false := by
  unfold buildContents
  cases h : s.rq.overflow <;> cases h2 : s.rq.refused <;> simp

/-- Everything the build of a READY notice can do (R128 to R130). -/
theorem buildNotice_spec (s : State) : NoticeBuilt s (buildNotice s) := by
  unfold NoticeBuilt buildNotice
  split
  · next h => rw [buildContents_eq_none.mpr h]
  · next h =>
    cases hb : buildContents s with
    | none => exact absurd (buildContents_eq_none.mp hb) h
    | some new =>
      have e : noticeAfterBuild s = some (match s.rq.notice with
          | none => { contents := new, committed := false, deferred := none }
          | some n => n.add new) := by
        simp only [noticeAfterBuild, hb] <;> rfl
      rw [e]
      exact reevaluate_spec _

/-- The results of a command do not bear on the build of a READY notice. -/
theorem NoticeBuilt.answer {u t : State} (c : Cst) (r : Quad) (h : NoticeBuilt u t) :
    NoticeBuilt (Machine.answer c r u) (Machine.answer c r t) := by
  unfold NoticeBuilt at h ⊢
  split at h
  · next h1 =>
    rw [if_pos (show (Machine.answer c r u).rq.refused = [] ∧
      (Machine.answer c r u).rq.overflow = false from h1), h]
  · next h1 =>
    rw [if_neg (show ¬ ((Machine.answer c r u).rq.refused = [] ∧
      (Machine.answer c r u).rq.overflow = false) from h1)]
    exact Reevaluated.answer c r h

end Sys2Proof.Machine
end

