-- ==== Sys2Proof/Laws/Line.lean ====
section
/-! SUPPORT. What the rows from the line rest on, each said once: the marks of the quiet count where none is left
to take, and the character that reaches FR. -/

namespace Sys2Proof.Machine

open Sys2Proof

/-! ### Marks of the quiet count -/

/-- Below 4, and below 11 in RECOVER, FR has no mark to take. -/
theorem Fr.atQuiet_below {q : Nat} {fr : Fr} (h : fr.mode = .hunt → fr.guard = true → q < 4)
    (h' : fr.mode = .recover → q < 11) : fr.atQuiet q = fr := by
  obtain ⟨mode, guard, record, groups⟩ := fr
  cases mode <;> simp_all [Fr.atQuiet, Config.responseGap, Config.gapLimit]
  · intro hq; cases guard <;> simp_all; omega

/-- No mark of the quiet count begins or ends the reception of a frame but the truncation. -/
theorem Fr.atQuiet_receiving (q : Nat) (fr : Fr) :
    (fr.mode.receiving = true → fr.atQuiet q = fr) ∧
    (fr.mode.receiving = false → (fr.atQuiet q).mode.receiving = false) := by
  obtain ⟨mode, guard, record, groups⟩ := fr
  by_cases h4 : Config.responseGap ≤ q <;> by_cases h11 : Config.gapLimit ≤ q <;>
    cases mode <;> simp [FrMode.receiving, Fr.atQuiet, h4, h11]

@[simp] theorem waitsForCharacter_reachQuiet (n : Nat) (s : State) :
    waitsForCharacter (reachQuiet n s) = waitsForCharacter s := by
  have h := Fr.atQuiet_receiving (max s.lac.quiet n) s.fr
  unfold waitsForCharacter reachQuiet
  cases hm : s.fr.mode.receiving with
  | true => simp only [h.1 hm, hm]
  | false => simp only [h.2 hm, Bool.false_and]

/-- A demotion flag that stands below its mark stands through the clearing. -/
theorem clearReachedDemotions_none {s : State}
    (h : ∀ c : Sys2Proof.Class, 13 + 2 * c.toNat ≤ s.lac.quiet → s.lac.demoted.get c = false) :
    clearReachedDemotions s = s := by
  have key : s.lac.demoted.mapWith
      (fun c d => d && decide (s.lac.quiet < Config.demotedThreshold c)) = s.lac.demoted := by
    have k : ∀ c : Sys2Proof.Class,
        (s.lac.demoted.get c && decide (s.lac.quiet < Config.demotedThreshold c)) = s.lac.demoted.get c := by
      intro c
      by_cases hc : 13 + 2 * c.toNat ≤ s.lac.quiet
      · simp [h c hc]
      · have : s.lac.quiet < Config.demotedThreshold c := by
          cases c <;> simp [Config.demotedThreshold, Config.baseThreshold, Class.toNat] at hc ⊢ <;> omega
        simp [this]
    have e : ∀ p : PerClass Bool, p = ⟨p.get .urgent, p.get .control, p.get .normal, p.get .bulk⟩ := fun _ => rfl
    rw [e s.lac.demoted]
    simp only [PerClass.mapWith]
    congr 1
    · exact k .urgent
    · exact k .control
    · exact k .normal
    · exact k .bulk
  unfold clearReachedDemotions
  rw [key]

/-- With no mark left to take, all that taking the marks can do is FR's gap guard and the end of RECOVER. -/
theorem takeMarks_of_taken {s : State} (h : MarksTaken s) : takeMarks s = reachQuiet 0 s := by
  obtain ⟨h1, h2, h3⟩ := h
  have hq : (reachQuiet 0 s).lac = s.lac := by simp [reachQuiet]
  have hw : (waitsForCharacter (reachQuiet 0 s) && decide ((reachQuiet 0 s).lac.quiet ≥ Config.gapLimit)) = false := by
    rw [hq, waitsForCharacter_reachQuiet]
    by_cases hg : 11 ≤ s.lac.quiet
    · simp [h1 hg]
    · simp [Config.gapLimit]; omega
  unfold takeMarks
  simp only [hw]
  simp only [Bool.false_eq_true, if_false]
  rw [hq]
  have hd : closeAtDeadline (reachQuiet 0 s) = reachQuiet 0 s ∨
      (s.lac.mode == .quiet && decide (s.lac.quiet ≥ Config.responseDeadline)) = false := by
    by_cases c : s.lac.mode = .quiet ∧ 10 ≤ s.lac.quiet
    · left; simp [closeAtDeadline, hq, h2 c.2 c.1]
    · right; simp [Config.responseDeadline]; intro e; simp [e] at c; omega
  have hs3 : (if (s.lac.mode == .quiet && decide (s.lac.quiet ≥ Config.responseDeadline)) = true
      then closeAtDeadline (reachQuiet 0 s) else reachQuiet 0 s) = reachQuiet 0 s := by
    rcases hd with hd | hd
    · simp [hd]
    · simp [hd]
  rw [hs3, hq]
  split
  · next hm => exact clearReachedDemotions_none (by rw [hq]; exact h3 (by simpa using hm))
  · rfl

/-- Below a count of 10, and below 11 outside QUIET, no mark but FR's is left to take. -/
theorem marksTaken_below {s : State} (h : s.lac.quiet < 10 ∨ (s.lac.mode ≠ .quiet ∧ s.lac.quiet < 11)) :
    MarksTaken s := by
  refine ⟨fun h' => by omega, fun h' m => ?_, fun m c h' => ?_⟩
  · rcases h with h | h
    · omega
    · exact absurd m h.1
  · rcases h with h | h <;> omega

/-! ### The end of a reception -/

/-- A failed candidate is reported, or nothing is: the blocks that it leaves alone. -/
theorem candidateFailed_keeps (r : Rx) (s : State) :
    (candidateFailed r s).sc = s.sc ∧ (candidateFailed r s).cfg = s.cfg ∧
    (candidateFailed r s).rq = s.rq := by
  simp only [candidateFailed]
  split <;> simp

/-- The receiver mode after an ending (R106). -/
def Ending.mode : Ending → FrMode
  | .good | .badCheck | .truncated => .hunt
  | .framing | .malformed => .recover

/-- The gap guard after an ending at a quiet count (R95, R106). -/
def Ending.guard (q : Nat) : Ending → Bool
  | .good | .badCheck => decide (q < 4)
  | _ => false

/-- Everything the end of a reception can do: `c` is the state with the reception over and the candidate
reported, `d` the state with the frame dealt with. -/
theorem endReception_spec {how : Ending} {x : Rx} {u s c d : State} (hx : u.fr.record = some x)
    (hs : u.lac.mode = s.lac.mode)
    (hc : c = (if x.candidate
      then reportCandidate how x (receptionOver how.mode (how.guard u.lac.quiet) u.lac.quiet u)
      else receptionOver how.mode (how.guard u.lac.quiet) u.lac.quiet u))
    (hd : d = (if how = .good then dealGood x c else dealDamaged how u.fr.mode x c)) :
    ReturnsToQuiet s d (endReception how u) := by
  have ended : leaveReceive (afterEnding how u)
      = receptionOver how.mode (how.guard u.lac.quiet) u.lac.quiet u := by
    by_cases k : u.lac.mode = .receive <;> cases how <;>
      simp [leaveReceive, afterEnding, receptionOver, k, Ending.mode, Ending.guard, Config.responseGap] <;>
      rfl
  unfold ReturnsToQuiet endReception
  simp only [hx]
  rw [ended, ← hc, ← hd, hs]
  split
  · exact reevaluate_spec _
  · rfl

/-- A reception that is over leaves no trace of its record or of the count before. -/
@[simp] theorem receptionOver_of_record (m : FrMode) (g : Bool) (q q' : Nat) (x : Option Rx) (u : State) :
    receptionOver m g q
      { u with lac := { u.lac with quiet := q' }, fr := { u.fr with record := x } }
      = receptionOver m g q u := rfl

/-- The record of a frame once its last character is counted. -/
def Rx.counted (r : Rx) : Rx := { r with count := r.count + 1, leadBits := [], inChar := false }

/-- What is done with a damaged frame does not bear on its character count. -/
theorem dealDamaged_eq {how : Ending} {m : FrMode} {r x : Rx} {c s : State}
    (hc : c.sc.station = s.sc.station) (hh : how ≠ .malformed) (hx : x = r ∨ x = r.counted) :
    dealDamaged how m x c =
      damagedDealt r (if m = .check then r.length else r.received)
        (if how = .truncated then some r.length else none)
        { Tags.none with
          crcBad := decide (how = .badCheck), framing := decide (how = .framing),
          truncated := decide (how = .truncated), unanswered := unanswered r s } c := by
  have hk : x.kind = r.kind ∧ x.accepted = r.accepted ∧ x.claim = r.claim ∧ x.chain = r.chain ∧
      x.length = r.length ∧ x.received = r.received ∧ x.src = r.src ∧ x.dest = r.dest ∧
      x.cls = r.cls := by rcases hx with rfl | rfl <;> simp [Rx.counted]
  obtain ⟨k1, k2, k3, k4, k5, k6, k7, k8, k9⟩ := hk
  have htag : unansweredTag x c = unanswered r s := by
    simp only [unansweredTag, unanswered, hc, k1]
    cases s.sc.station <;> cases r.kind <;> rfl
  have hb : ∀ a b : Ending, (a == b) = decide (a = b) := fun a b => by cases a <;> cases b <;> rfl
  cases hacc : r.accepted <;> by_cases hm : m = .check <;>
    simp [dealDamaged, damagedDealt, damageTags, htag, countEvent, Counters.count, keepEntry, entryOf,
      releaseChain, hh, hb, k1, k2, k3, k4, k5, k6, k7, k8, k9, hacc, hm]

/-! ### The character that reaches FR -/

/-- A character that arrives changes nothing but the internal path. -/
theorem CharacterArrives.keeps {v : Byte} {stop : LineBit} {s u : State} {r : Rx} {b : Byte}
    {st : LineBit} (h : CharacterArrives v stop s r b st u) :
    u.fr = s.fr ∧ u.sc = s.sc ∧ u.cfg = s.cfg ∧ u.bp = s.bp ∧ u.rq = s.rq ∧ u.ts = s.ts ∧
    u.pt = s.pt ∧ u.lac.mode = s.lac.mode ∧ u.resetLow = s.resetLow := by
  obtain ⟨_, _, ⟨_, _, _, _, _, rfl⟩ | ⟨_, _, _, _, _, _, rfl⟩⟩ := h <;> simp

/-- A byte is what its eight bits on the line carry (R3). -/
@[simp] theorem completedByte_nil (b : Byte) : completedByte [] b = b := by
  have h : ∀ k : Fin 256, completedByte [] (BitVec.ofFin k) = BitVec.ofFin k := by decide +kernel
  exact h b.toFin

/-- A character that arrives is taken by FR, from the state that has it taken from its source: a dominant stop bit
is a framing error, and with a recessive one the character is complete. -/
theorem exec_characterReceived_arrives {v : Byte} {stop : LineBit} {s u : State} {r : Rx} {b : Byte}
    {st : LineBit} (h : CharacterArrives v stop s r b st u) (hm : s.fr.mode.receiving = true) :
    (st = .dominant → exec (.characterReceived v stop) s =
      .next (endReception .framing { u with lac := { u.lac with quiet := quietAtStop b .dominant } })) ∧
    (st = .recessive → exec (.characterReceived v stop) s =
      match takeComplete b r { u with lac := { u.lac with quiet := quietAtStop b .recessive } } with
      | none => .fault .outsideChain
      | some t => .next t) := by
  obtain ⟨hl, hr, ⟨hst, hd, hq, rfl, rfl, rfl⟩ | ⟨hst, rfl, w, rest, hp, rfl, rfl⟩⟩ := h
  · have ha : arrivingCharacter v st u = some (v, st, u) := by
      have hk : (if characterBegun u then u else takeMarks u) = u := by
        cases hin : r.inChar with
        | true => simp [characterBegun, hst, hr, hin]
        | false =>
          simp only [hin, Bool.false_eq_true, false_or] at hq
          have ht : MarksTaken u := marksTaken_below (by
            rcases hq with hq | hq
            · exact .inl hq
            · exact .inr ⟨by simp [hq.1], hq.2⟩)
          have hf : ∀ q, u.fr.atQuiet q = u.fr := fun q => (Fr.atQuiet_receiving q u.fr).1 hm
          rw [takeMarks_of_taken ht]
          simp [characterBegun, hr, hin, reachQuiet, hf]
      unfold arrivingCharacter
      cases hs : u.sc.station <;> simp_all [Station.readsLine]
    constructor <;> intro e <;> subst e <;>
      rw [exec, execCharacterReceived, if_neg (by simp [hl])] <;> simp only [ha, hr] <;> rfl
  · refine ⟨fun e => (by cases e), fun _ => ?_⟩
    rw [exec, execCharacterReceived, if_neg (by simp [hl])]
    simp only [arrivingCharacter, hst, hp, hr]
    rfl

/-- The frame end ends the reception, good or with a bad check. -/
theorem exec_characterReceived_frameEnd {v : Byte} {stop : LineBit} {s u : State} {r : Rx} {b : Byte}
    (h : FrameEnds v stop s r b u) :
    exec (.characterReceived v stop) s =
      .next (endReception (if checkChars r.crc = [r.checkHigh, b] then .good else .badCheck)
        { u with
          lac := { u.lac with quiet := quietAtStop b .recessive }
          fr := { u.fr with record := some r.counted } }) := by
  obtain ⟨ha, hm, hc⟩ := h
  have hf := ha.keeps.1
  rw [(exec_characterReceived_arrives ha (by rw [hm]; rfl)).2 rfl]
  have last : ¬ (r.count + 1 ≤ (match r.kind with | .ack | .busy => 5 | _ => r.length + 5)) := by
    cases hk : r.kind <;> simp only [hk] at hc ⊢ <;> omega
  cases hk : r.kind <;> simp only [hk] at last <;>
    simp [takeComplete, hf, hm, takeCheck, setRecord, last, hk, Rx.counted]

end Sys2Proof.Machine
end

