-- ==== Sys2Proof/Laws/Memory.lean ====
section
/-! SUPPORT. The laws of message memory (R47, R51): its canonical form, a read after a write, and where the
bytes of a chain lie. -/

namespace Sys2Proof.Machine

open Sys2Proof

/-- A memory whose cells start at `low` also starts at any address below. -/
theorem Memory.wfFrom_mono {low low' : Nat} (h : low' ≤ low) :
    ∀ {mem : List Host.Cell}, Memory.wfFrom low mem = true → Memory.wfFrom low' mem = true
  | [], _ => rfl
  | (k, v) :: rest, hw => by
    simp only [Memory.wfFrom, Bool.and_eq_true, decide_eq_true_eq] at hw ⊢
    exact ⟨⟨⟨Nat.le_trans h hw.1.1.1, hw.1.1.2⟩, hw.1.2⟩, hw.2⟩

/-- An address below every cell reads as unlisted. -/
theorem Memory.read_below {low a : Nat} (h : a < low) :
    ∀ {mem : List Host.Cell}, Memory.wfFrom low mem = true → Memory.read mem a = Memory.unlisted
  | [], _ => rfl
  | (k, v) :: rest, hw => by
    simp only [Memory.wfFrom, Bool.and_eq_true, decide_eq_true_eq] at hw
    have hk : k ≠ a := by omega
    simp only [Memory.read, if_neg hk]
    exact Memory.read_below (Nat.lt_succ_of_lt (Nat.lt_of_lt_of_le h hw.1.1.1)) hw.2

/-- Putting a cell in front keeps the canonical form. -/
theorem Memory.cons_wf {low a : Nat} {v : Byte} {rest : List Host.Cell} (hl : low ≤ a)
    (ha : a < Config.memoryBytes) (hr : Memory.wfFrom (a + 1) rest = true) :
    Memory.wfFrom low (Memory.cons a v rest) = true := by
  unfold Memory.cons
  split
  · exact Memory.wfFrom_mono (by omega) hr
  · next hv => simp [Memory.wfFrom, hl, ha, hv, hr]

/-- A write inside the memory keeps the canonical form. -/
theorem Memory.write_wfFrom {low a : Nat} {v : Byte} (hl : low ≤ a) (ha : a < Config.memoryBytes) :
    ∀ {mem : List Host.Cell}, Memory.wfFrom low mem = true →
      Memory.wfFrom low (Memory.write mem a v) = true
  | [], _ => Memory.cons_wf hl ha rfl
  | (k, w) :: rest, hw => by
    have hw' := hw
    simp only [Memory.wfFrom, Bool.and_eq_true, decide_eq_true_eq] at hw
    unfold Memory.write
    split
    · next h =>
      refine Memory.cons_wf hl ha ?_
      simp only [Memory.wfFrom, Bool.and_eq_true, decide_eq_true_eq]
      exact ⟨⟨⟨h, hw.1.1.2⟩, hw.1.2⟩, hw.2⟩
    · split
      · next h => subst h; exact Memory.cons_wf hl ha hw.2
      · simp only [Memory.wfFrom, Bool.and_eq_true, decide_eq_true_eq]
        exact ⟨⟨⟨hw.1.1.1, hw.1.1.2⟩, hw.1.2⟩, Memory.write_wfFrom (by omega) ha hw.2⟩

/-- A write inside the memory keeps `Memory.wf`. -/
theorem Memory.write_wf {mem : List Host.Cell} {a : Nat} {v : Byte} (h : Memory.wf mem = true)
    (ha : a < Config.memoryBytes) : Memory.wf (Memory.write mem a v) = true :=
  Memory.write_wfFrom (Nat.zero_le a) ha h

/-- A cell put in front is read back. -/
theorem Memory.read_cons_same {a : Nat} {v : Byte} {rest : List Host.Cell}
    (hr : Memory.wfFrom (a + 1) rest = true) : Memory.read (Memory.cons a v rest) a = v := by
  unfold Memory.cons
  split
  · next h => rw [Memory.read_below (Nat.lt_succ_self a) hr, h]
  · simp [Memory.read]

/-- A cell put in front is read at its own address alone. -/
theorem Memory.read_cons_other {a b : Nat} {v : Byte} {rest : List Host.Cell} (h : b ≠ a) :
    Memory.read (Memory.cons a v rest) b = Memory.read rest b := by
  unfold Memory.cons
  split
  · rfl
  · simp [Memory.read, Ne.symm h]

/-- A read after a write to the same address gives the value written. -/
theorem Memory.read_write_same {low a : Nat} {v : Byte} :
    ∀ {mem : List Host.Cell}, Memory.wfFrom low mem = true →
      Memory.read (Memory.write mem a v) a = v
  | [], _ => Memory.read_cons_same rfl
  | (k, w) :: rest, hw => by
    simp only [Memory.wfFrom, Bool.and_eq_true, decide_eq_true_eq] at hw
    unfold Memory.write
    split
    · next h =>
      refine Memory.read_cons_same ?_
      simp only [Memory.wfFrom, Bool.and_eq_true, decide_eq_true_eq]
      exact ⟨⟨⟨h, hw.1.1.2⟩, hw.1.2⟩, hw.2⟩
    · split
      · next h => subst h; exact Memory.read_cons_same hw.2
      · next h =>
        simp only [Memory.read, if_neg (Ne.symm h)]
        exact Memory.read_write_same hw.2

/-- A write changes no other address. -/
theorem Memory.read_write_other {a b : Nat} {v : Byte} (h : b ≠ a) :
    ∀ (mem : List Host.Cell), Memory.read (Memory.write mem a v) b = Memory.read mem b
  | [] => Memory.read_cons_other h
  | (k, w) :: rest => by
    unfold Memory.write
    split
    · exact Memory.read_cons_other h
    · split
      · next h2 =>
        subst h2
        rw [Memory.read_cons_other h]
        simp [Memory.read, Ne.symm h]
      · simp only [Memory.read]
        split
        · rfl
        · exact Memory.read_write_other h rest

/-- The memory after reset has the canonical form. -/
theorem Memory.reset_wf : Memory.wf State.reset.bp.mem = true := rfl

/-- The address of a message's byte lies in message memory. -/
theorem messageAddress_lt {chain : List Block} {k a : Nat} (h : messageAddress chain k = some a) :
    a < Config.memoryBytes := by
  simp only [messageAddress, Option.map_eq_some_iff] at h
  obtain ⟨b, _, rfl⟩ := h
  have hb := b.isLt
  have hk : k % Config.blockBytes < 32 := Nat.mod_lt _ (by decide)
  simp only [Config.blockBytes, Config.memoryBytes] at hk ⊢
  omega

/-- A chain that fits a length has an address for every offset below it (R51). -/
theorem messageAddress_isSome {chain : List Block} {length k : Nat}
    (h : chain.length = blocksFor length) (hk : k < length) :
    ∃ a, messageAddress chain k = some a := by
  have hlt : k / Config.blockBytes < chain.length := by
    rw [h]
    simp only [blocksFor, Config.blockBytes]
    omega
  exact ⟨_, by simp only [messageAddress, List.getElem?_eq_getElem hlt, Option.map_some]; rfl⟩

/-- Everything a store to a message can do: it writes one byte of message memory. -/
theorem storeMessageByte_eq {chain : List Block} {k : Nat} {v : Byte} {s t : State} :
    storeMessageByte chain k v s = some t ↔
      ∃ a, messageAddress chain k = some a ∧
        t = { s with bp := { s.bp with mem := Memory.write s.bp.mem a v } } := by
  simp only [storeMessageByte, Option.map_eq_some_iff]
  constructor
  · rintro ⟨a, h, rfl⟩
    exact ⟨a, h, rfl⟩
  · rintro ⟨a, h, rfl⟩
    exact ⟨a, h, rfl⟩

/-- A store to a message keeps the canonical form. -/
theorem storeMessageByte_wf {chain : List Block} {k : Nat} {v : Byte} {s t : State}
    (h : storeMessageByte chain k v s = some t) (hw : Memory.wf s.bp.mem = true) :
    Memory.wf t.bp.mem = true := by
  obtain ⟨a, ha, rfl⟩ := storeMessageByte_eq.mp h
  exact Memory.write_wf hw (messageAddress_lt ha)

end Sys2Proof.Machine
end

