-- ==== Sys2Proof/Laws/Peers.lean ====
section
/-! SUPPORT. What the operations over the peer table do to its nodes and its length (7.1 to 7.3). -/

namespace Sys2Proof.Machine

open Sys2Proof

/-- The entry found for a node stands in the table and is that node's. -/
theorem findPeer_eq_some {ps : List Peer} {node : Nat} {p : Peer} (h : findPeer ps node = some p) :
    p ∈ ps ∧ p.node = node :=
  ⟨List.mem_of_find?_eq_some h, by simpa using List.find?_some h⟩

/-- No entry is found exactly when no entry is the node's. -/
theorem findPeer_eq_none {ps : List Peer} {node : Nat} :
    findPeer ps node = none ↔ ∀ p ∈ ps, p.node ≠ node := by
  simp [findPeer]

/-- A change of an entry that keeps its node keeps every node in its place. -/
theorem modifyPeer_nodes {node : Nat} {f : Peer → Peer} (hf : ∀ p, (f p).node = p.node)
    (ps : List Peer) : (modifyPeer node f ps).map Peer.node = ps.map Peer.node := by
  simp only [modifyPeer, List.map_map]
  refine List.map_congr_left fun p _ => ?_
  simp only [Function.comp]
  split
  · exact hf p
  · rfl

/-- A change of an entry keeps the number of entries. -/
@[simp] theorem modifyPeer_length (node : Nat) (f : Peer → Peer) (ps : List Peer) :
    (modifyPeer node f ps).length = ps.length := by
  simp [modifyPeer]

/-- An eviction takes one entry out and keeps the order of the others. -/
theorem evictOne_sublist {keep : Option Nat} {ps rest : List Peer} (h : evictOne keep ps = some rest) :
    rest.Sublist ps ∧ rest.length + 1 = ps.length := by
  induction ps generalizing rest with
  | nil => simp [evictOne] at h
  | cons p ps ih =>
    unfold evictOne at h
    cases he : evictOne keep ps with
    | some r =>
      simp only [he, Option.some.injEq] at h
      subst h
      obtain ⟨h1, h2⟩ := ih he
      exact ⟨h1.cons_cons p, by simp [h2]⟩
    | none =>
      simp only [he] at h
      split at h
      · cases h
        exact ⟨List.sublist_cons_self p ps, rfl⟩
      · cases h

/-- No entry can be evicted exactly when each is active, remote busy or the one to be kept (R139, R144). -/
theorem evictOne_eq_none {keep : Option Nat} {ps : List Peer} :
    evictOne keep ps = none ↔ ∀ p ∈ ps, p.evictable keep = false := by
  induction ps with
  | nil => simp [evictOne]
  | cons p ps ih =>
    cases he : evictOne keep ps with
    | some r =>
      have := mt ih.mpr (by simp [he])
      simp [evictOne, he, this]
    | none => simpa [evictOne, he] using fun _ => ih.mp he

/-- The last place: one of the sixteen is free, and no entry is evictable (R144, first row). -/
theorem lastPlace_iff {ps : List Peer} :
    lastPlace ps = true ↔ ps.length = 15 ∧ ∀ p ∈ ps, p.active = true ∨ p.holdoff.isSome = true := by
  simp [lastPlace, evictOne_eq_none, Peer.evictable, Peer.remoteBusy, Config.peerCapacity, or_iff_not_imp_left]

/-- A table with room for one more entry is part of the table it was made from. -/
theorem makeRoom_sublist {keep : Option Nat} {ps room : List Peer} (h : makeRoom keep ps = some room) :
    room.Sublist ps ∧ (ps.length ≤ Config.peerCapacity → room.length < Config.peerCapacity) := by
  unfold makeRoom at h
  split at h
  · next hl =>
    cases h
    exact ⟨List.Sublist.refl ps, fun _ => hl⟩
  · obtain ⟨h1, h2⟩ := evictOne_sublist h
    exact ⟨h1, fun hl => by omega⟩

/-- A table with an entry for a node keeps its bounds. -/
theorem ensurePeer_bounds {keep : Option Nat} {node : Nat} {ps qs : List Peer} (h : ensurePeer keep node ps = some qs)
    (hl : ps.length ≤ Config.peerCapacity) (hn : (ps.map Peer.node).Nodup) :
    qs.length ≤ Config.peerCapacity ∧ (qs.map Peer.node).Nodup := by
  unfold ensurePeer at h
  cases hf : findPeer ps node with
  | some p =>
    simp only [hf, Option.some.injEq] at h
    subst h
    exact ⟨hl, hn⟩
  | none =>
    simp only [hf, Option.map_eq_some_iff] at h
    obtain ⟨room, hr, rfl⟩ := h
    obtain ⟨h1, h2⟩ := makeRoom_sublist hr
    refine ⟨h2 hl, ?_⟩
    simp only [List.map_cons, List.nodup_cons]
    refine ⟨?_, (h1.map Peer.node).nodup hn⟩
    intro hm
    obtain ⟨q, hq, e⟩ := List.mem_map.mp hm
    exact findPeer_eq_none.mp hf q (h1.subset hq) e

/-- The removal of an entry keeps the table's bounds. -/
theorem removePeer_bounds {node : Nat} {ps : List Peer} (hl : ps.length ≤ Config.peerCapacity)
    (hn : (ps.map Peer.node).Nodup) :
    (removePeer node ps).length ≤ Config.peerCapacity ∧ ((removePeer node ps).map Peer.node).Nodup :=
  ⟨Nat.le_trans (List.length_filter_le _ _) hl, (List.filter_sublist.map Peer.node).nodup hn⟩

/-- A move to the front keeps the table's bounds (R140). -/
theorem touchPeer_bounds {node : Nat} {ps : List Peer} (hl : ps.length ≤ Config.peerCapacity)
    (hn : (ps.map Peer.node).Nodup) :
    (touchPeer node ps).length ≤ Config.peerCapacity ∧ ((touchPeer node ps).map Peer.node).Nodup := by
  unfold touchPeer
  cases hf : findPeer ps node with
  | none => exact ⟨hl, hn⟩
  | some p =>
    obtain ⟨hp, hnode⟩ := findPeer_eq_some hf
    refine ⟨?_, ?_⟩
    · have : (removePeer node ps).length < ps.length := by
        unfold removePeer
        exact List.length_filter_lt_length_iff_exists.mpr ⟨p, hp, by simp [hnode]⟩
      simp only [List.length_cons]
      omega
    · simp only [List.map_cons, List.nodup_cons]
      refine ⟨?_, (removePeer_bounds hl hn).2⟩
      simp [removePeer, hnode]

end Sys2Proof.Machine
end

