-- ==== Sys2Proof/Laws/Station.lean ====
section
/-! SUPPORT. What leaving ONLINE or LOOP does (R171), said once: to the one slot that is OFFERED, SENDING or
AWAITING (R90), and to everything else. -/

namespace Sys2Proof.Machine

open Sys2Proof

theorem slotWhen_of {s : State} {n : SlotId} {sl : Slot} {p : SlotPhase} (h : slotAt s n = some sl)
    (hp : sl.phase = p) : slotWhen s p n = some sl := by
  simp [slotWhen, h, hp]

theorem slotWhen_none {s : State} {p : SlotPhase} {n : SlotId}
    (h : ∀ sl, slotAt s n = some sl → sl.phase ≠ p) : slotWhen s p n = none := by
  cases e : slotAt s n with
  | none => simp [slotWhen, e]
  | some sl => simp [slotWhen, e, h sl e]

theorem awaitingSlot_none {s : State} (h : ∀ n sl, slotAt s n = some sl → sl.phase ≠ .awaiting) :
    awaitingSlot s = none := by
  simp only [awaitingSlot, List.find?_eq_none, slotIn]
  intro n _
  cases e : slotAt s n with
  | none => simp
  | some sl => simpa using h n sl e

/-- The AWAITING slot, where only one slot is AWAITING. -/
theorem awaitingSlot_only {s : State} {n : SlotId} {sl : Slot} (h : slotAt s n = some sl)
    (hp : sl.phase = .awaiting)
    (hu : ∀ m sm, slotAt s m = some sm → sm.phase = .awaiting → m = n) : awaitingSlot s = some n := by
  cases e : awaitingSlot s with
  | none =>
    simp only [awaitingSlot, List.find?_eq_none, slotIn] at e
    simpa [h, hp] using e n (by simp [allSlots])
  | some m =>
    have hm := List.find?_some e
    simp only [slotIn] at hm
    cases em : slotAt s m with
    | none => simp [em] at hm
    | some sm =>
      simp only [em, decide_eq_true_eq] at hm
      rw [hu m sm em hm]

theorem withdrawOffer_none {s : State} (h : ∀ m, slotWhen s .offered m = none) :
    withdrawOffer s = { s with lac := { s.lac with offer := none } } := by
  unfold withdrawOffer
  split
  · rename_i e; rw [← e]
  · rfl
  · simp [h]

theorem cutSlot_none {s : State} (h : ∀ m, slotWhen s .sending m = none) : cutSlot s = s := by
  unfold cutSlot
  split
  · simp [endCut, h]
  · rfl

theorem closeWindow_none {s : State} (h : ∀ n sl, slotAt s n = some sl → sl.phase ≠ .awaiting) :
    closeWindow s = s := by
  rw [closeWindow, awaitingSlot_none h]

theorem returnNotice_eq (s : State) :
    returnNotice s = { s with rq := { s.rq with
      notice := if noticeCommitted s then s.rq.notice.map .revert else s.rq.notice } } := by
  unfold returnNotice
  split <;> rfl

/-- The station in its new state, without its offer. -/
def offerless (target : Station) (s : State) : State :=
  { s with sc := { s.sc with station := target }, lac := { s.lac with offer := none } }

theorem withdrawOffer_offerless {target : Station} {s : State} (h : ∀ m, slotWhen s .offered m = none) :
    withdrawOffer (setStation target s) = offerless target s :=
  withdrawOffer_none (s := setStation target s) h

/-- No slot but one is OFFERED, SENDING or AWAITING, and that one is not in the state `p`. -/
theorem slotWhen_none_of_only {s w : State} {n : SlotId} {p : SlotPhase}
    (hp : p = .offered ∨ p = .sending ∨ p = .awaiting)
    (hu : ∀ m sm, slotAt s m = some sm → sm.holdsPeer → m = n)
    (hw : ∀ m, m ≠ n → slotAt w m = slotAt s m) (hn : ∀ sm, slotAt w n = some sm → sm.phase ≠ p) (m : SlotId) :
    slotWhen w p m = none := by
  refine slotWhen_none fun sm e => ?_
  by_cases hm : m = n
  · subst hm; exact hn sm e
  · rw [hw m hm] at e
    intro hq
    exact hm (hu m sm e (by rcases hp with rfl | rfl | rfl <;> simp [Slot.holdsPeer, hq]))

/-- TS's part of leaving ONLINE or LOOP, by the slot that stands in OFFERED, SENDING or AWAITING. -/
theorem stopScheduler_spec {target : Station} {s u : State} (h : SlotStopped s u) :
    stopScheduler (setStation target s) = { u with
      sc := { s.sc with station := target }
      lac := { s.lac with offer := none }
      rq := { s.rq with
        notice := if noticeCommitted s then s.rq.notice.map .revert else s.rq.notice } } := by
  rw [stopScheduler, returnNotice_eq]
  rcases h with ⟨hno, hus⟩ | ⟨n, sl, hs, hu, h⟩
  · subst u
    have hn : ∀ n sl, slotAt s n = some sl →
        sl.phase ≠ .offered ∧ sl.phase ≠ .sending ∧ sl.phase ≠ .awaiting := by
      intro n sl e
      simpa [Slot.holdsPeer, and_assoc] using hno n sl e
    rw [withdrawOffer_offerless fun m => slotWhen_none fun sl e => (hn m sl e).1,
      cutSlot_none (s := offerless target s) fun m => slotWhen_none fun sl e => (hn m sl e).2.1,
      closeWindow_none (s := offerless target s) fun m sl e => (hn m sl e).2.2]
    rfl
  · have hset : ∀ x m, m ≠ n → (s.ts.slots.set n x)[m] = s.ts.slots[m] := by
      intro x m hm
      simp [Fin.val_inj, Ne.symm hm]
    have hphase : ∀ {p}, sl.phase ≠ p → ∀ sm, slotAt s n = some sm → sm.phase ≠ p := by
      intro p hp sm e
      rw [hs] at e; cases e; exact hp
    have hclose : ∀ w : State, (∀ m, m ≠ n → slotAt w m = slotAt s m) →
        (∀ sm, slotAt w n = some sm → sm.phase ≠ .awaiting) → closeWindow w = w := by
      intro w h1 h2
      refine closeWindow_none fun m sm e hp => ?_
      simpa [slotWhen, e, hp] using slotWhen_none_of_only (p := .awaiting) (by simp) hu h1 h2 m
    obtain ⟨ph, kd, cls, dest, len, chain, att, bc, rs, unc, ab, sq⟩ := sl
    simp only at h
    rcases h with ⟨rfl, ho, rfl⟩ | ⟨rfl, ⟨b, ahead, hb, hbs⟩, rfl⟩ | ⟨rfl, rfl⟩
    · have h1 : withdrawOffer (setStation target s) = { offerless target s with
          ts := { s.ts with
            slots := s.ts.slots.set n (some ⟨.queued, kd, cls, dest, len, chain, att, bc, rs, unc, ab, sq⟩) }
          pt := match kd with
            | .datagram => s.pt
            | .data => s.pt.map fun p => if p.node = dest then { p with active := false } else p } := by
        have e : slotWhen (setStation target s) .offered n = some _ := slotWhen_of hs rfl
        simp only [withdrawOffer, setStation, ho] at e ⊢
        rw [e]
        cases kd <;> rfl
      rw [h1, cutSlot_none, hclose]
      · cases kd <;> rfl
      · intro m hm; exact hset _ m hm
      · intro sm e; simp [slotAt] at e; rw [← e]; simp
      · refine slotWhen_none_of_only (by simp) hu (fun m hm => hset _ m hm) ?_
        intro sm e; simp [slotAt] at e; rw [← e]; simp
    · rw [withdrawOffer_offerless (slotWhen_none_of_only (by simp) hu (fun _ _ => rfl) (hphase (by simp)))]
      have h1 : cutSlot (offerless target s) = requeueFront n
          ⟨.sending, kd, cls, dest, len, chain, att, bc, rs, unc, ab, sq⟩ (offerless target s) := by
        obtain ⟨src, c, bits⟩ := b
        simp only at hbs
        subst hbs
        have e : slotWhen (offerless target s) .sending n = some _ := slotWhen_of hs rfl
        simp only [offerless, cutSlot, hb, endCut] at e ⊢
        simp only [e]
      rw [h1, hclose]
      · cases kd <;> rfl
      · intro m hm
        cases kd <;> exact hset _ m hm
      · intro sm e
        cases kd <;>
          simp [requeueFront, clearActive, enqueueFront, setSlot, withPeer, offerless, slotAt] at e <;>
          rw [← e] <;> simp
    · rw [withdrawOffer_offerless (slotWhen_none_of_only (by simp) hu (fun _ _ => rfl) (hphase (by simp))),
        cutSlot_none (s := offerless target s)
          (slotWhen_none_of_only (by simp) hu (fun _ _ => rfl) (hphase (by simp)))]
      have h1 : awaitingSlot (offerless target s) = some n :=
        awaitingSlot_only (s := offerless target s) hs rfl
          fun m sm e hq => hu m sm e (by simp [Slot.holdsPeer, hq])
      have e : slotWhen (offerless target s) .awaiting n = some _ := slotWhen_of hs rfl
      rw [closeWindow, h1]
      simp only [endUnanswered, e, afterNoAnswer]
      cases kd <;> cases ab <;> by_cases hr : s.cfg.retry < att + 1 <;>
        simp [hr, failOrRetry, offerless, completeSlot, requeueFront, reportEnd, clearActive, enqueueFront, setSlot,
          withPeer, releaseChain, noticeCommitted, Slot.holdsPeer] <;> rfl

theorem SlotStopped.keeps {s u : State} (h : SlotStopped s u) :
    u.fr = s.fr ∧ u.lac = s.lac ∧ u.rq = s.rq ∧ u.sc = s.sc := by
  rcases h with ⟨_, rfl⟩ | ⟨n, sl, _, _, ⟨_, _, rfl⟩ | ⟨_, _, rfl⟩ | ⟨_, rfl⟩⟩
  · simp
  · simp
  · simp
  · simp only [afterNoAnswer]
    split
    · simp
    · split <;> simp

/-- What a change of station state out of ONLINE or LOOP leaves. -/
theorem leaveLine_spec {target : Station} {s u : State} (h : SlotStopped s u)
    (hs : s.sc.station = .online ∨ s.sc.station = .loop) : leaveLine target s = leftLine target s u := by
  obtain ⟨h1, _, _, _⟩ := h.keeps
  simp only [leaveLine, stopScheduler_spec h]
  rcases hs with hst | hst <;> by_cases hoff : target = .offline <;> cases hr : s.fr.record <;>
    cases hb : s.lac.burst <;>
    simp [leftLine, stopReceiver, stopLac, hst, hoff, h1, hr, hb, abandonReception, enterRecover, releaseChain,
      recordBlocks]

end Sys2Proof.Machine
end

