-- ==== Sys2Proof/Tests/Slice0.lean ====
section
/-! SUPPORT. Tests: the checks of `Instr.wf`, one or two small steps of each command with results from the
spec's text and worked sequences, and for each statement with hypotheses a state that meets them. -/

namespace Sys2Proof.Tests

set_option Elab.async false

open Sys2Proof Sys2Proof.Machine

/-! ### Small states -/

/-- Station 5 ONLINE on a line that has been quiet for 20 bit-times. -/
def online : State :=
  { State.reset with
    sc := { station := .online, address := some 5, faultEvent := false }
    lac := { Lac.reset with mode := .quiet, quiet := 20 }
    fr := { Fr.reset with mode := .hunt } }

/-- The same station in LISTEN. -/
def listening : State := { online with sc := { online.sc with station := .listen } }

/-- A peer entry for node 9: SYNCED with tx next seq 1. -/
def peer9 (held : Bool) : Peer :=
  { newPeer 9 with synced := true, txSeq := true, active := held }

/-- Slot 0: a class 2 message of 4 bytes to node 9, in block 0. -/
def slot0 (p : SlotPhase) (k : MsgKind) : Slot :=
  { phase := p, kind := k, cls := .normal, dest := 9, length := 4, chain := [0], attempts := 0,
    busyCount := 0, reason := none, uncertain := false, abortPending := false, sentSeq := true }

/-- The characters of message A of 11.7, with payload 00h. -/
def frameA : List Byte := withCheck [0x85, 0x11, 0x09, 0x04, 0, 0, 0, 0]

/-- A frame driven, from a source, with some bits already sent. -/
def driven (src : BurstSource) (bits : Nat) : Burst := { source := src, chars := frameA, bits := bits }

/-- Station 5 with slot 0 in a state, its message in block 0, and an entry for node 9. -/
def withSlot (sl : Slot) (s : State) : State :=
  { s with
    ts := { s.ts with
      slots := s.ts.slots.set 0 (some sl)
      queues := if sl.phase.waits then s.ts.queues.set sl.cls [0] else s.ts.queues
      completion := if sl.phase.outcome.isSome then [0] else [] }
    bp := { s.bp with free := (List.finRange 128).drop 1 }
    pt := [peer9 sl.holdsPeer] }

def loading : State := withSlot (slot0 .loading .data) online
def queued : State := withSlot (slot0 .queued .data) online
def offered : State :=
  let s := withSlot (slot0 .offered .data) online
  { s with lac := { s.lac with offer := some (.slot 0) } }
def sending (k : MsgKind) (m : LacMode) (bits : Nat) : State :=
  let s := withSlot (slot0 .sending k) online
  { s with lac := { s.lac with mode := m, burst := some (driven (.slot 0 []) bits) } }
def awaiting : State :=
  let s := withSlot (slot0 .awaiting .data) online
  { s with lac := { s.lac with quiet := 1, window := some 0 }, fr := { s.fr with guard := true } }
def finished : State := withSlot { slot0 (.done .sent) .datagram with chain := [] } online

/-- The kept truncated group datagram of 11.4. -/
def entryG : Entry :=
  { src := 5, dest := 50, sort := .group, cls := .normal, kind := .datagram, length := 25,
    declared := some 40, tags := { Tags.none with truncated := true }, chain := [127] }

/-- Two entries in the queue, congested or not. -/
def holding (congested paused : Bool) : State :=
  { online with
    bp := { free := (List.finRange 128).take 126, mem := [(3, 0x41), (4064, 0x42)] }
    rq := { online.rq with
      entries := [entryG, { entryG with chain := [126] }], congested := congested, paused := paused
      refused := if congested || paused then [7] else [] } }

/-- A frame being received: a record in a receiver state, from LRX, with a chain taken from the pool. -/
def receiving (m : FrMode) (r : Rx) : State :=
  { online with
    lac := { online.lac with mode := .receive, quiet := 1 }
    fr := { online.fr with mode := m, record := some r }
    bp := { online.bp with free := (List.finRange 128).drop r.chain.length } }

/-- The record of a DATAGRAM from node 9 to this node, claimed, with its header received. -/
def rxBody : Rx :=
  { Rx.empty with
    count := 4, inChar := false, src := 9, kind := .datagram, dest := 5, accepted := some .own,
    length := 1, claim := .succeeded, chain := [0], crc := crcOf [0x09, 0x20, 0x05, 0x01] }

/-- The same record with its payload and the first CHECK character received. -/
def rxCheck : Rx :=
  { rxBody with
    count := 6, received := 1, crc := crcOf [0x09, 0x20, 0x05, 0x01, 0x77]
    checkHigh := (crcOf [0x09, 0x20, 0x05, 0x01, 0x77]).extractLsb' 8 8 }

/-- A DATA frame from node 9, as the receiver decision takes it. -/
def rxData : Rx := { rxCheck with kind := .data, seq := true }

def withArgs (a b c d : Byte) (s : State) : State :=
  { s with hp := { s.hp with args := { b0 := a, b1 := b, b2 := c, b3 := d } } }

/-- A command answers a next state that passes a test. -/
def gives (c : Instr) (s : State) (f : State → Bool) : Bool :=
  match exec c s with
  | .next t => f t
  | .fault _ => false
  | .refused _ => false

/-- A state with another quiet count. -/
def quietAt (q : Nat) (s : State) : State := { s with lac := { s.lac with quiet := q } }

/-- A state with the receiver in RECOVER. -/
def recovering (q : Nat) : State := { quietAt q online with fr := { online.fr with mode := .recover } }

/-! ### Well-formedness -/

theorem test_wf_refuses_a_named_code : (Instr.unknownCommand 0x10).wf = false := by decide
theorem test_wf_takes_an_unnamed_code : (Instr.unknownCommand 0x14).wf = true := by decide
theorem test_wf_refuses_an_own_row : (Instr.registerWrite 0x24 1).wf = false := by decide
theorem test_wf_takes_other_offsets :
    (Instr.registerWrite 0x26 1).wf = true ∧ (Instr.registerWrite 0x3F 1).wf = true := by decide
theorem test_wf_refuses_a_bit_beyond_the_frame : (Instr.echoFault 2460).wf = false := by decide
theorem test_wf_refuses_node_48 : (Instr.holdoffExpiry 48).wf = false := by decide
theorem test_no_word_spells_a_command : decodeTableWord 16 0x1234 = none := by decide

/-! ### Formats -/

theorem test_check_of_one_zero : crcOf [0x00] = 0xE1F0 := by decide
theorem test_check_of_nine_digits :
    crcOf [0x31, 0x32, 0x33, 0x34, 0x35, 0x36, 0x37, 0x38, 0x39] = 0x29B1 := by decide +kernel
/-- LEAD 85h puts 1, 0, 0, 0, 0, 1, 0, 1 on the line after its start bit (11.7). -/
theorem test_bits_of_lead :
    dataBits (leadChar .normal 5) =
      [.recessive, .dominant, .dominant, .dominant, .dominant, .recessive, .dominant, .recessive] := by
  decide
/-- Station 9's READY with list 7, 5 and its ACK to message A (11.7). -/
theorem test_ready_and_ack_characters :
    (readyChars 9 (.list [7, 5])).take 6 = [0x49, 0x50, 0x3F, 0x02, 0x07, 0x05] ∧
    (responseChars 9 { kind := .ack, reason := 0, seq := true, dest := 5, createdAt := none }).take 4
      = [0x09, 0x31, 0x05, 0x00] := by decide
/-- The head entry of 11.4. -/
theorem test_head_registers :
    (List.range 6).map (fun k => registerByte (holding false false) (BitVec.ofNat 6 (0x14 + k))) =
      [0x85, 0xB2, 0x22, 0x19, 0x28, 0x04] := by decide +kernel
/-- The record of slot 3 of 11.5. -/
theorem test_completion_record :
    completionRecord 3 .delivered
      { slot0 (.done .delivered) .data with attempts := 2, busyCount := 1, reason := some 1 } =
      { b0 := 0x13, b1 := 0x42, b2 := 0x01, b3 := 0x01 } := by decide
/-- Node 9's entry for source 5 of 11.6. -/
theorem test_peer_record :
    (peerRecord 0 { newPeer 5 with rxKnown := true, rxResync := true }).b0 = 0x28 := by decide

/-! ### Transmit commands -/

theorem test_allocate :
    gives .allocate (withArgs 70 2 9 1 online) (fun t =>
      t.hp.res.b0 == 0 && t.bp.free.length == 125 && slotIn t .loading 0) = true := by decide +kernel
theorem test_allocate_data_to_a_group :
    gives .allocate (withArgs 70 2 50 1 online) (fun t => t.hp.cst == .badArgument) = true := by
  decide +kernel
theorem test_submit :
    gives .submit (withArgs 0 0 0 0 loading) (fun t =>
      t.lac.offer == some (.slot 0) && t.ts.queues.normal == [0]) = true := by decide +kernel
theorem test_submit_twice :
    gives .submit (withArgs 0 0 0 0 queued) (fun t => t.hp.cst == .badState) = true := by
  decide +kernel
theorem test_abort_loading :
    gives .abort (withArgs 0 0 0 0 loading) (fun t =>
      slotAt t 0 == none && t.bp.free.getLast? == some 0) = true := by decide +kernel
theorem test_abort_awaiting :
    gives .abort (withArgs 0 0 0 0 awaiting) (fun t =>
      t.hp.cst == .deferred && slotIn t .awaiting 0) = true := by decide +kernel
theorem test_collect :
    gives .collect finished (fun t =>
      t.hp.res.b0 == 0x20 && slotAt t 0 == none && t.ts.completion == []) = true := by decide +kernel

/-! ### Queue, peer and group commands -/

theorem test_release :
    gives .release (holding false false) (fun t =>
      t.hp.res.b0 == 1 && t.bp.free.getLast? == some 127) = true := by decide +kernel
theorem test_release_leaves_congestion :
    gives .release (holding true false) (fun t =>
      !t.rq.congested && t.iu.flowLeft && t.lac.offer == some .notice) = true := by decide +kernel
theorem test_flush :
    gives .flush (holding false false) (fun t =>
      t.hp.res.b0 == 2 && t.rq.entries == [] && t.bp.free.length == 128) = true := by decide +kernel
theorem test_pause : gives .pause online (fun t => t.rq.paused) = true := by decide +kernel
theorem test_resume :
    gives .resume (holding false true) (fun t =>
      !t.rq.paused && t.rq.refused == [] && t.lac.offer == some .notice) = true := by decide +kernel
theorem test_forget :
    gives .forget (withArgs 9 0 0 0 queued) (fun t => t.pt == []) = true := by decide +kernel
theorem test_forget_active :
    gives .forget (withArgs 9 0 0 0 awaiting) (fun t => t.hp.cst == .badState) = true := by
  decide +kernel
theorem test_query_peer :
    gives .queryPeer (withArgs 9 0 0 0 awaiting) (fun t =>
      t.hp.res == { b0 := 0x43, b1 := 0, b2 := 0, b3 := 9 }) = true := by decide +kernel
theorem test_join :
    gives .join (withArgs 48 0 0 0 online) (fun t => t.fr.groups == [48] && t.hp.res.b0 == 1) = true := by
  decide +kernel
theorem test_leave_absent :
    gives .leave (withArgs 62 0 0 0 online) (fun t => t.hp.cst == .notFound) = true := by decide +kernel

/-! ### Station commands -/

theorem test_go_online :
    gives .goOnline { State.reset with sc := { State.reset.sc with address := some 5 } } (fun t =>
      t.sc.station == .online && t.fr.mode == .recover) = true := by decide +kernel
theorem test_go_online_without_address :
    gives .goOnline State.reset (fun t => t.hp.cst == .badState) = true := by decide +kernel
theorem test_go_listen_keeps_the_slot_queued :
    gives .goListen offered (fun t => slotIn t .queued 0 && t.lac.offer == none) = true := by
  decide +kernel
theorem test_go_loop_only_from_offline :
    gives .goLoop online (fun t => t.hp.cst == .badState) = true := by decide +kernel
theorem test_go_offline :
    gives .goOffline awaiting (fun t =>
      t.sc.station == .offline && t.fr.mode == .off && slotIn t .queued 0) = true := by decide +kernel
theorem test_set_address :
    gives .setAddress (withArgs 47 0 0 0 State.reset) (fun t => t.sc.address == some 47) = true := by
  decide +kernel
theorem test_clear_keeps_memory :
    gives .clear (holding true true) (fun t =>
      t.rq.entries == [] && Memory.read t.bp.mem 3 == 0x41 && t.bp.free.length == 128) = true := by
  decide +kernel
theorem test_clear_counters :
    gives .clearCounters (countEvent .stray online) (fun t => t.ctr == .zero) = true := by decide +kernel
theorem test_unknown_command :
    gives (.unknownCommand 0x14) online (fun t => t.hp.cst == .unknown && t.hp.cmd == 0x14) = true := by
  decide +kernel

/-! ### Registers -/

/-- Node 12 in SILENT with its fault event set reads 83h, then 03h, from STN byte 0 (11.2). -/
theorem test_stn_read :
    gives .stnRead { online with sc := { station := .silent, address := some 12, faultEvent := true } }
      (fun t => t.hp.dataOut == 0x83 && registerByte t 0x10 == 0x03 && registerByte t 0x11 == 0x8C)
      = true := by decide +kernel
theorem test_rxstat_read :
    gives .rxstatRead (reportLoss (holding true true)) (fun t =>
      t.hp.dataOut == 0x83 && !t.rq.drop && t.rq.loss) = true := by decide +kernel
theorem test_flow_read :
    gives .flowRead (enterCongestion online) (fun t =>
      t.hp.dataOut == 0x01 && !t.iu.flowEntered) = true := by decide +kernel
theorem test_hstat_read :
    gives .hstatRead (raiseConfigError online) (fun t =>
      t.hp.dataOut == 0x02 && !t.hp.configError) = true := by decide +kernel
theorem test_windata_read_head :
    gives .windataRead { holding false false with hp := { Hp.reset with winSel := .rxHead } } (fun t =>
      t.hp.dataOut == 0x42 && t.hp.winOfs == 1) = true := by decide +kernel
theorem test_windata_write :
    gives (.windataWrite 0x5A) { loading with hp := { Hp.reset with winOfs := 3 } } (fun t =>
      Memory.read t.bp.mem 3 == 0x5A && t.hp.winOfs == 4) = true := by decide +kernel
theorem test_windata_write_past_the_length :
    gives (.windataWrite 0x5A) { loading with hp := { Hp.reset with winOfs := 4 } } (fun t =>
      t.bp.mem == [] && t.hp.windowError && t.hp.winOfs == 5) = true := by decide +kernel
theorem test_winsel_write :
    gives (.winselWrite 0x10) online (fun t => t.hp.winSel == .rxHead) = true := by decide +kernel
theorem test_winofs_write_240 :
    gives (.winofsWrite 240) online (fun t => t.hp.windowError && t.hp.winOfs == 0) = true := by
  decide +kernel
theorem test_cntl_read :
    gives .cntlRead { online with ctr := { Counters.zero with sent := 0x1234 } } (fun t =>
      t.hp.dataOut == 0x34 && registerByte t 0x32 == 0x12) = true := by decide +kernel
theorem test_cntsel_write :
    gives (.cntselWrite 7) online (fun t => t.hp.cntSel == .dropped) = true := by decide +kernel
theorem test_inten_write :
    gives (.intenWrite 0xFF) finished (fun t =>
      registerByte t 0x0E == 0x3F && registerByte t 0x0D == 5 && intAsserted t) = true := by
  decide +kernel
theorem test_divl_write :
    gives (.divlWrite 0x34) State.reset (fun t => t.hp.divLow == 0x34 && t.cfg.div == 8) = true := by
  decide +kernel
theorem test_divh_write :
    gives (.divhWrite 0x01) State.reset (fun t => t.cfg.div == 264) = true := by decide +kernel
theorem test_hiwat_write_enters_congestion :
    gives (.hiwatWrite 2) { holding false false with cfg := { Cfg.reset with lowat := 1 } } (fun t =>
      t.rq.congested && t.iu.flowEntered) = true := by decide +kernel
theorem test_lowat_write_at_hiwat :
    gives (.lowatWrite 20) online (fun t => t.hp.configError && t.cfg.lowat == 12) = true := by
  decide +kernel
theorem test_rxtrig_write_starts_the_timer :
    gives (.rxtrigWrite 3) (holding false false) (fun t => t.rq.stale == some 0) = true := by
  decide +kernel
theorem test_stale_write_zero :
    gives (.staleWrite 0) online (fun t => t.hp.configError && t.cfg.stale == 16) = true := by
  decide +kernel
theorem test_register_write_retry :
    gives (.registerWrite 0x26 7) online (fun t => t.cfg.retry == 7) = true := by decide +kernel
theorem test_register_write_read_only :
    gives (.registerWrite 0x00 7) online (fun t => t == online) = true := by decide +kernel

/-! ### Reset and supply -/

theorem test_reset_asserted :
    gives .resetAsserted (holding true true) (fun t =>
      t.sc.station == .offline && Memory.read t.bp.mem 3 == 0x41 && t.resetLow) = true := by
  decide +kernel
theorem test_reset_released :
    gives .resetReleased { State.reset with resetLow := true } (fun t => t == State.reset) = true := by
  decide +kernel
theorem test_power_up :
    gives .powerUp (holding true true) (fun t => Memory.read t.bp.mem 3 == 0) = true := by decide +kernel

/-! ### The line -/

theorem test_start_bit :
    gives .startBit offered (fun t =>
      t.fr.mode == .header && t.lac.mode == .receive && t.lac.offer == some (.slot 0)) = true := by
  decide +kernel
theorem test_character_lead :
    gives (.characterReceived 0x85 .recessive) (receiving .header Rx.empty) (fun t =>
      t.fr.record.map (fun r => (r.cls, r.src, r.count)) == some (.normal, 5, 1)
        && t.lac.quiet == 2) = true := by decide +kernel
theorem test_character_framing_error :
    gives (.characterReceived 0x85 .dominant) (receiving .header Rx.empty) (fun t =>
      t.fr.mode == .recover && t.ctr.damaged == 1 && t.lac.mode == .quiet) = true := by decide +kernel
theorem test_gap_guard_clear :
    gives .gapGuardClear awaiting (fun t => !t.fr.guard && t.lac.quiet == 4) = true := by decide +kernel
theorem test_gap_limit_truncation :
    gives .gapLimitTruncation (receiving .body rxBody) (fun t =>
      t.fr.mode == .hunt && t.ctr.damaged == 1 && t.bp.free.length == 128) = true := by decide +kernel
theorem test_gap_limit_recover :
    gives .gapLimitRecover { online with fr := { online.fr with mode := .recover } } (fun t =>
      t.fr.mode == .hunt && !t.fr.guard) = true := by decide +kernel
theorem test_demotion_clear :
    gives (.demotionClear .normal)
      { online with lac := { online.lac with quiet := 0, demoted := .all true } } (fun t =>
        t.lac.quiet == 17 && t.lac.demoted == { PerClass.all true with normal := false }) = true := by
  decide +kernel
/-- Message A of 11.7 begins with 85h, 11h, 09h, 04h. -/
theorem test_lead_start :
    gives .leadStart offered (fun t =>
      t.lac.mode == .contend && t.lac.burst.map (fun b => b.chars) == some frameA
        && slotIn t .sending 0 && t.ts.queues.normal == []) = true := by decide +kernel
theorem test_contention_lost :
    gives (.contentionLost 0) (sending .data .contend 0) (fun t =>
      t.lac.mode == .receive && t.ctr.lostContention == 1 && t.ts.queues.normal == [0]
        && t.lac.offer == some (.slot 0)) = true := by decide +kernel
theorem test_lead_won :
    gives .leadWon (sending .data .contend 10) (fun t => t.lac.mode == .send) = true := by
  decide +kernel
theorem test_echo_fault :
    gives (.echoFault 10) (sending .data .send 10) (fun t =>
      t.lac.faults == 1 && t.fr.mode == .recover && t.ctr.echoFault == 1
        && (slotAt t 0).map (fun sl => sl.attempts) == some 1) = true := by decide +kernel
theorem test_echo_fault_at_the_limit :
    gives (.echoFault 10)
      { sending .data .send 10 with cfg := { Cfg.reset with faultlim := 1 } } (fun t =>
        t.sc.station == .silent && t.sc.faultEvent) = true := by decide +kernel
theorem test_frame_sent_data :
    gives .frameSent (sending .data .send 100) (fun t =>
      t.lac.window == some 0 && slotIn t .awaiting 0 && t.ctr.sent == 1
        && t.lac.demoted.normal) = true := by decide +kernel
theorem test_frame_sent_datagram :
    gives .frameSent (sending .datagram .send 100) (fun t =>
      slotIn t (.done .sent) 0 && t.ts.completion == [0] && t.lac.window == none) = true := by
  decide +kernel

/-- A response order held: ACK to message A, at node 9. -/
def ordered : State :=
  { online with
    sc := { online.sc with address := some 9 }
    lac := { online.lac with order := some { kind := .ack, reason := 0, seq := true, dest := 5, createdAt := none } } }

/-- A response being driven. -/
def responding : State :=
  { online with lac := { online.lac with mode := .respond, burst := some (driven .response 60) } }

theorem test_response_start :
    gives .responseStart ordered (fun t =>
      t.lac.mode == .respond && t.lac.order == none
        && t.lac.burst.map (fun b => b.chars.take 4) == some [0x09, 0x31, 0x05, 0x00]) = true := by
  decide +kernel
theorem test_response_sent :
    gives .responseSent responding (fun t =>
      t.lac.mode == .quiet && t.ctr.sent == 1 && t.lac.demoted == .all false) = true := by
  decide +kernel
theorem test_no_response :
    gives .noResponse awaiting (fun t =>
      (slotAt t 0).map (fun sl => (sl.attempts, sl.uncertain)) == some (1, true)
        && t.ts.queues.normal == [0]) = true := by decide +kernel
theorem test_holdoff_expiry :
    gives (.holdoffExpiry 9) { queued with pt := [{ peer9 false with holdoff := some 1 }] } (fun t =>
      t.iu.flowReleased && t.lac.offer == some (.slot 0)) = true := by decide +kernel
theorem test_stale_timer_expiry :
    gives .staleTimerExpiry { online with rq := { online.rq with stale := some 4096 } } (fun t =>
      t.rq.rxStale && t.rq.stale == none) = true := by decide +kernel
theorem test_dominant_bit_in_recover :
    gives .dominantBitInRecover (recovering 10) (fun t =>
      t.lac.quiet == 0 && t.fr.mode == .recover) = true := by decide +kernel
/-- From a count of 11 on RECOVER has ended, and a dominant bit is a start bit (R8). -/
theorem test_start_bit_at_11_in_recover :
    gives .startBit (recovering 11) (fun t => t.fr.mode == .header && t.lac.mode == .receive) = true := by
  decide +kernel
/-- At a count of 4 the gap guard is clear, and a start bit opens a frame that the window waits for (R6). -/
theorem test_start_bit_at_4 :
    gives .startBit (quietAt 4 awaiting) (fun t =>
      t.fr.record.map (fun r => r.candidate) == some true && t.ctr.stray == 0) = true := by decide +kernel
/-- At a count of 10 the window has closed with NO_RESPONSE before the start bit (R7, R39). -/
theorem test_start_bit_at_10 :
    gives .startBit (quietAt 10 awaiting) (fun t =>
      t.fr.record.map (fun r => r.candidate) == some false
        && (slotAt t 0).map (fun sl => sl.attempts) == some 1) = true := by decide +kernel
/-- At a count of 13 the flag of class 0 is normal before the start bit, that of class 1 is not (R24). -/
theorem test_start_bit_at_13 :
    gives .startBit (quietAt 13 { online with lac := { online.lac with demoted := .all true } }) (fun t =>
      t.lac.demoted == { PerClass.all true with urgent := false }) = true := by decide +kernel
/-- A sender that stops inside a character: silence completes it (R8). -/
theorem test_silence_completes_a_character :
    step (quietAt 8 (receiving .body { rxBody with inChar := true })) =
      .next { quietAt 9 (receiving .body { rxBody with inChar := true }) with
        pending := [.characterReceived 0xFF .recessive] } := rfl

/-! ### States that meet the statements' hypotheses

One theorem for each statement that has hypotheses, named after it: each clause at the ends of its range. -/

/-- The state after a command. -/
def after (c : Instr) (s : State) : State :=
  match exec c s with
  | .next t => t
  | .fault _ => s
  | .refused _ => s

/-- A state with something in every collection, in which a frame is being received. -/
def full : State :=
  { online with
    lac := { online.lac with mode := .receive, quiet := 1, offer := some (.slot 0) }
    ts := { online.ts with
      slots := (online.ts.slots.set 0 (some (slot0 .offered .data))).set 1
        (some { slot0 (.done .sent) .datagram with chain := [] })
      queues := online.ts.queues.set .normal [0]
      completion := [1] }
    bp := { free := ((List.finRange 128).drop 2).take 125, mem := [(3, 0x41)] }
    fr := { online.fr with mode := .body, record := some { rxBody with chain := [1] } }
    rq := { online.rq with entries := [entryG], congested := true, refused := [7] }
    pt := [peer9 true]
    pending := [.collect, .windataRead] }

/-- What holds of every slot that has a record, from a check of the sixteen. -/
theorem forall_slots {s : State} {P : SlotId → Slot → Prop} (f : SlotId → Slot → Bool)
    (hf : ∀ n sl, f n sl = true → P n sl) (h : ∀ n, (slotAt s n).all (f n) = true) :
    ∀ n sl, slotAt s n = some sl → P n sl := by
  intro n sl e
  have := h n
  rw [e] at this
  exact hf n sl this

/-- A property of a slot's record, as a check. -/
theorem exists_slot {o : Option Slot} {P : Slot → Prop} (f : Slot → Bool)
    (hf : ∀ sl, f sl = true ↔ P sl) : (∃ sl, o = some sl ∧ P sl) ↔ o.any f = true := by
  cases o with
  | none => simp
  | some sl => simp [hf]

theorem witness_StepWithNothingWaiting :
    online.pending = [] ∧ dueRows online = [] ∧ online.resetLow = false ∧
    online.sc.station.runs = true ∧ online.lac.burst = none ∧
    dueRows (quietAt 4 awaiting) ≠ [] ∧ (quietAt 4 awaiting).pending = [] ∧
    dueRows (quietAt 3 awaiting) = [] ∧ (quietAt 3 awaiting).fr.guard = true ∧
    dueRows (quietAt 8 (receiving .body { rxBody with inChar := true })) = [] ∧
    FrMode.body.receiving = true ∧ (receiving .body rxBody).sc.station.readsLine ∧
    (receiving .body rxBody).lac.mode.drives = false ∧ 9 ≤ 8 + 1 + rxBody.leadBits.length ∧
    dueRows (quietAt 10 (receiving .body rxBody)) = [] ∧ rxBody.inChar = false ∧
    (quietAt 10 (receiving .body rxBody)).lac.burst = none := by decide +kernel

theorem witness_NothingIsTakenWhileResetIsLow :
    (after .resetAsserted full).resetLow = true ∧
    Instr.startBit ∉ ([.stnRead, .rxstatRead, .flowRead, .hstatRead, .windataRead, .cntlRead,
      .resetAsserted, .resetReleased, .powerUp] : List Instr) := by decide +kernel

/-- The pins while RESET# is high: the start bit, the first data bit (1) and the stop bit of LEAD 85h, and the stop
bit of the frame's last character; LDIR negated in QUIET and in LOOP. -/
theorem witness_NothingIsTakenWhileResetIsLow_pins :
    online.resetLow = false ∧ ldirAsserted (sending .data .send 10) = true ∧ ldirAsserted online = false ∧
    (sending .data .send 10).lac.burst = some (driven (.slot 0 []) 10) ∧
    (driven (.slot 0 []) 0).bits = 10 * 0 + 0 ∧ (driven (.slot 0 []) 0).chars[0]? = some 0x85 ∧
    (driven (.slot 0 []) 9).bits = 10 * 0 + 9 ∧ (driven (.slot 0 []) 99).bits = 10 * 9 + 9 ∧
    (driven (.slot 0 []) 99).chars[9]?.isSome = true ∧ (setStation .loop online).sc.station = .loop := by
  decide +kernel

/-- LEAD 85h on the pins: low in its start bit, high in its first data bit, low in its second, high in the stop
bit (R1, R3, R41). -/
theorem test_pins_of_a_lead :
    [0, 1, 2, 9].map (fun k => ltxHigh (sending .data .contend k)) = [false, true, false, true] ∧
    ldirAsserted (setStation .loop (sending .data .send 11)) = false ∧
    ltxHigh (setStation .loop (sending .data .send 11)) = true := by decide +kernel

theorem witness_MemoryStaysCanonical : Memory.wf full.bp.mem = true ∧ Safe full :=
  ⟨by decide +kernel, _, rfl⟩

theorem witness_EveryBlockKeepsOneHolder : BlockLaw full ∧ Safe full := by
  refine ⟨⟨⟨by decide +kernel, by decide +kernel, ?_⟩, ?_, by decide +kernel⟩, _, rfl⟩
  · intro r h
    cases h
    decide +kernel
  · exact forall_slots (fun _ sl => !sl.phase.outcome.isSome || sl.chain == [])
      (fun _ sl h hs => by simpa [hs] using h) (by decide +kernel)

theorem witness_ReceiveQueueBoundsAreKept : LevelLaw full ∧ RefusedLaw full ∧ Safe full := by
  refine ⟨⟨by decide +kernel, ?_⟩, ?_, _, rfl⟩
  · intro r h
    cases h
    decide +kernel
  · unfold RefusedLaw
    decide +kernel

theorem witness_QueuesNameTheirSlots : QueuesLaw full ∧ Safe full := by
  refine ⟨⟨?_, by decide +kernel, ?_⟩, _, rfl⟩
  · intro c
    refine ⟨by cases c <;> decide +kernel, fun n => ?_⟩
    rw [exists_slot (P := fun sl => sl.cls = c ∧ sl.phase.waits)
      (fun sl => decide (sl.cls = c) && sl.phase.waits) (fun sl => by simp)]
    cases c <;> revert n <;> decide +kernel
  · intro n
    rw [exists_slot (P := fun sl => sl.phase.outcome.isSome)
      (fun sl => sl.phase.outcome.isSome) (fun sl => Iff.rfl)]
    revert n
    decide +kernel

theorem witness_PeerTableLawIsKept : PeerLaw full ∧ Safe full :=
  ⟨by unfold PeerLaw; decide +kernel, _, rfl⟩

theorem witness_ConfigurationStaysInRange : ConfigLaw full ∧ Safe full :=
  ⟨by unfold ConfigLaw; decide +kernel, _, rfl⟩

theorem offerLaw_full : OfferLaw full := by
  have h0 : ∀ n sl, slotAt full n = some sl → sl.holdsPeer → n = 0 := fun n sl h hp =>
    (forall_slots (s := full) (P := fun n sl => (!sl.holdsPeer || n == 0) = true) _ (fun _ _ => id)
      (by decide +kernel) n sl h) |> fun k => by simpa [hp] using k
  have e0 : slotAt full 0 = some (slot0 .offered .data) := by decide +kernel
  refine ⟨?_, ?_, ?_, ?_, ?_, ?_, ?_, ?_, ?_⟩
  · intro n m sl sm hn hm hp hq
    rw [h0 n sl hn hp, h0 m sm hm hq]
  · intro h; exact absurd h (by decide +kernel)
  · intro n
    show some (Offer.slot 0) = some (Offer.slot n) ↔ _
    revert n
    decide +kernel
  · intro _; decide +kernel
  · intro h; exact absurd h (by decide +kernel)
  · intro n sl hn hp _
    rw [h0 n sl hn hp, e0] at hn
    cases hn
    exact ⟨peer9 true, by decide +kernel, rfl⟩
  · intro p hp _
    refine ⟨0, slot0 .offered .data, e0, rfl, rfl, ?_⟩
    have : p = peer9 true := by simpa [full] using hp
    rw [this]; rfl
  · intro _; decide +kernel
  · intro b hb; exact absurd hb (by simp [full, online, Lac.reset])

theorem witness_StationStateRulesTheLine : StationLaw full ∧ OfferLaw full ∧ Safe full :=
  ⟨by unfold StationLaw; decide +kernel, offerLaw_full, _, rfl⟩

theorem witness_ChainsFitTheirLengths : ChainLaw full ∧ Safe full := by
  refine ⟨⟨?_, by decide +kernel, ?_⟩, _, rfl⟩
  · exact forall_slots
      (fun _ sl => sl.phase.outcome != none || sl.chain.length == blocksFor sl.length)
      (fun _ sl h hs => by simpa [hs] using h) (by decide +kernel)
  · intro r h
    cases h
    unfold RecordFits
    decide +kernel

theorem witness_NoOffsetLeavesItsChain :
    ChainLaw { full with pending := [.windataRead] } ∧ OfferLaw { full with pending := [.windataRead] } :=
  ⟨witness_ChainsFitTheirLengths.1, offerLaw_full⟩

theorem witness_OnlyWindowAndReceptionWriteMemory :
    (Instr.collect).wf = true ∧ exec .collect full = .next (after .collect full) :=
  ⟨rfl, rfl⟩

theorem witness_OnlyCommandsAndEchoFaultsMoveTheStation :
    (Instr.echoFault 10).wf = true ∧
    exec (.echoFault 10) (sending .data .send 10) = .next (after (.echoFault 10) (sending .data .send 10))
      ∧ Instr.echoFault 10 ∉ ([.goOnline, .goListen, .goLoop, .goOffline, .clear, .resetAsserted,
        .resetReleased, .powerUp] : List Instr) :=
  ⟨rfl, rfl, by decide⟩

theorem witness_SettingsAndResultsStand :
    (Instr.startBit).wf = true ∧ exec .startBit offered = .next (after .startBit offered) ∧
    Instr.startBit ∉ ([.resetAsserted, .resetReleased, .powerUp] : List Instr) :=
  ⟨rfl, rfl, by decide⟩

theorem witness_CountersNeverFall :
    (Instr.frameSent).wf = true ∧
    exec .frameSent (sending .data .send 100) = .next (after .frameSent (sending .data .send 100)) ∧
    Instr.frameSent ∉ ([.clearCounters, .resetAsserted, .resetReleased, .powerUp] : List Instr) :=
  ⟨rfl, rfl, by decide⟩

theorem witness_AllocateByItsTests :
    ¬ AllocateFits (withArgs 241 3 63 2 online).hp.args ∧ ¬ AllocateFits (withArgs 0 0 48 1 online).hp.args ∧
    AllocateFits (withArgs 240 3 63 2 online).hp.args ∧ AllocateFits (withArgs 0 0 47 1 online).hp.args ∧
    (∀ n, slotAt { online with ts := { online.ts with
      slots := Vector.replicate 16 (some (slot0 .loading .data)) } } n ≠ none) ∧
    LowestFree online 0 ∧ LowestFree loading 1 ∧
    (240 + 31) / 32 + online.cfg.reserve ≤ online.bp.free.length ∧
    (23 : Nat) < (240 + 31) / 32 + online.cfg.reserve := by
  unfold AllocateFits LowestFree
  decide +kernel

theorem witness_SubmitQueuesALoadedSlot :
    15 < (withArgs 16 0 0 0 loading).hp.args.b0.toNat ∧
    (withArgs 0 0 0 0 loading).hp.args.b0 = byteOf (0 : SlotId).val ∧
    (withArgs 15 0 0 0 loading).hp.args.b0 = byteOf (15 : SlotId).val ∧
    slotAt loading 0 = some (slot0 .loading .data) ∧ slotAt loading 15 = none ∧
    slotAt queued 0 = some (slot0 .queued .data) := by decide +kernel

/-- Slot 0's frame on the internal path in LOOP, of which FR has received some. -/
def looping (m : FrMode) (r : Option Rx) : State :=
  let s := sending .data .send 50
  { s with
    sc := { s.sc with station := .loop }
    lac := { s.lac with path := frameA.drop 5 }
    fr := { s.fr with mode := m, record := r } }

theorem witness_AbortByTheSlotsState :
    slotAt online 15 = none ∧ slotAt loading 0 = some (slot0 .loading .data) ∧
    slotAt queued 0 = some (slot0 .queued .data) ∧
    slotAt offered 0 = some (slot0 .offered .data) ∧ offered.lac.offer = some (.slot 0) ∧
    slotAt (sending .data .send 10) 0 = some (slot0 .sending .data) ∧
    (sending .data .send 10).sc.station = .online ∧ (sending .data .send 10).lac.mode.drives ∧
    (sending .data .send 10).fr.record = none ∧
    slotAt (looping .hunt none) 0 = some (slot0 .sending .data) ∧ (looping .hunt none).lac.mode.drives ∧
    (looping .body (some { rxData with received := 1 })).sc.station = .loop ∧
    { rxData with received := 1 }.candidate = false ∧
    slotAt awaiting 0 = some (slot0 .awaiting .data) ∧
    (slotAt finished 0).map (fun sl => sl.phase) = some (.done .sent) := by decide +kernel

theorem witness_CollectTakesTheOldestRecord :
    online.ts.completion = [] ∧ finished.ts.completion = [0] ∧
    slotAt finished 0 = some { slot0 (.done .sent) .datagram with chain := [] } := by decide +kernel

/-- A window that selects slot 0, at its last byte or behind it, before SUBMIT and before ALLOCATE. -/
def windowed (s : State) (k : Nat) : State := withArgs 0 0 0 2 { s with hp := { s.hp with winOfs := k } }

theorem witness_SlotCommandsLeaveTheWindow :
    (windowed loading 3).hp.winSel = .slot 0 ∧
    exec .submit (windowed loading 3) = .next (after .submit (windowed loading 3)) ∧
    exec .allocate (windowed loading 3) = .next (after .allocate (windowed loading 3)) ∧
    exec .abort (windowed loading 3) = .next (after .abort (windowed loading 3)) ∧
    exec .clear (windowed loading 3) = .next (after .clear (windowed loading 3)) ∧
    (slotAt (after .submit (windowed loading 3)) 0).map (fun sl => sl.phase) = some .offered ∧
    slotAt (after .abort (windowed loading 3)) 0 = none ∧
    (slotAt (after .allocate (windowed loading 3)) 0) = some (slot0 .loading .data) ∧
    (slotAt (after .allocate (windowed loading 4)) 0) = some (slot0 .loading .data) ∧
    (slot0 .loading .data).length ≤ 4 ∧
    messageAddress (slot0 .loading .data).chain 3 = some 3 :=
  ⟨rfl, rfl, rfl, rfl, rfl, by decide +kernel, by decide +kernel, by decide +kernel, by decide +kernel,
    by decide, by decide⟩

theorem witness_OfferIsFirstInRank :
    schedulerBusy queued = false ∧ queued.lac.mode ≠ .respond ∧ chooseOffer queued = some (.slot 0) ∧
    queued.lac.offer ≠ some (.slot 0) ∧ slotAt queued 0 = some (slot0 .queued .data) ∧
    findPeer queued.pt 9 = some (peer9 false) ∧
    chooseOffer { queued with pt := [] } = some (.slot 0) ∧ findPeer [] 9 = none := by decide +kernel

/-- Station 5 with 15 entries that are not evictable, a QUEUED slot to node 9, which has none, and the decision on
a DATA frame from a sixteenth node just taken. -/
def decided : State :=
  decideData { Rx.empty with kind := .data, src := 40, claim := .succeeded }
    { queued with pt := (List.range 15).map fun k => { newPeer (10 + k) with holdoff := some 256 } }

/-- R144, first row: the slot that comes second is not presented; it is once a bit-time has passed (log 29). -/
theorem test_entry_just_created_keeps_its_place :
    decided.pt.length = 16 ∧ freshPeer decided = some 40 ∧ (reevaluate decided).lac.offer = none ∧
    freshPeer (quietAt 21 decided) = none ∧
    (reevaluate (quietAt 21 decided)).lac.offer = some (.slot 0) := by decide +kernel

/-- An entry that a decision creates after an eviction is evictable at once (R139). -/
theorem test_entry_after_an_eviction :
    freshPeer (decideData { Rx.empty with kind := .data, src := 40, claim := .succeeded }
      { queued with pt := newPeer 8 :: decided.pt.drop 1 }) = none := by decide +kernel

theorem witness_OfferIsFirstInRank_fresh :
    decided.lac.order = some { kind := .ack, reason := 0, seq := false, dest := 40, createdAt := some 20 } ∧
    decided.lac.quiet = 20 ∧ slotAt decided 0 = some (slot0 .queued .data) ∧
    (∀ p ∈ decided.pt, p.node ≠ 9) := by decide +kernel

theorem witness_ReleaseAndFlush :
    online.rq.entries = [] ∧
    (holding false false).rq.entries = [entryG, { entryG with chain := [126] }] ∧
    (holding false false).rq.congested = false ∧ (holding true false).rq.congested = true ∧
    (1 : Nat) ≤ (holding true false).cfg.lowat ∧ (holding true false).rq.paused = false ∧
    (holding true true).rq.paused = true ∧
    { holding true true with cfg := { Cfg.reset with lowat := 0 } }.cfg.lowat < 1 := by
  decide +kernel

theorem witness_PauseAndResume :
    online.rq.paused = false ∧ (holding true true).rq.paused = true ∧
    (holding true true).rq.congested = true ∧ (holding false true).rq.paused = true ∧
    (holding false true).rq.congested = false ∧
    (Notice.mk .all true none).committed = true ∧ (Notice.mk .all false none).committed = false := by decide +kernel

theorem witness_ForgetAndQueryPeer :
    47 < (withArgs 48 0 0 0 queued).hp.args.b0.toNat ∧
    (∀ p ∈ online.pt, p.node ≠ (withArgs 47 0 0 0 online).hp.args.b0.toNat) ∧
    findPeer awaiting.pt 9 = some (peer9 true) ∧ (peer9 true).active = true ∧
    findPeer queued.pt 9 = some (peer9 false) ∧ (peer9 false).active = false ∧
    (peer9 false).holdoff = none ∧
    findPeer [newPeer 3, { peer9 false with holdoff := some 1 }] 9
      = some { peer9 false with holdoff := some 1 } ∧
    [newPeer 3, newPeer 47] = [newPeer 3] ++ newPeer 47 :: [] ∧ (newPeer 47).node ≤ 47 ∧
    ∀ q ∈ [newPeer 3], q.node ≠ (newPeer 47).node := by decide +kernel

theorem witness_JoinAndLeaveKeepTheGroupList :
    (withArgs 48 0 0 0 online).hp.args.b0.toNat = 48 ∧
    ¬ (48 ≤ (47 : Nat) ∧ 47 ≤ 62) ∧ ¬ (48 ≤ (63 : Nat) ∧ 63 ≤ 62) ∧
    48 ∈ (after .join (withArgs 48 0 0 0 online)).fr.groups ∧ 62 ∉ online.fr.groups ∧
    (setGroups [48, 49, 50, 51, 52, 53, 54, 55] online).fr.groups.length = 8 ∧
    online.fr.groups.length < 8 ∧
    Instr.goListen ∈ ([.goOnline, .goListen, .goLoop, .goOffline, .clear] : List Instr) ∧
    gives .goListen online (fun _ => true) = true ∧
    gives (.echoFault 10) (sending .data .send 10) (fun _ => true) = true := by decide +kernel

theorem witness_PeerTableMakesRoom :
    ([newPeer 3, peer9 true].map Peer.node).Nodup ∧ peer9 true ∈ [newPeer 3, peer9 true] ∧
    (∀ p ∈ [newPeer 3, peer9 true], p.node ≠ 4) ∧
    newPeer 4 =
      { node := 4, synced := false, txSeq := false, holdoff := none, rxKnown := false, rxSeq := false,
        rxResync := false, active := false } ∧
    [newPeer 3, peer9 true].length < 16 ∧ 16 ≤ ((List.range 16).map newPeer).length ∧
    (∀ p ∈ (List.range 16).map newPeer, p.node ≠ 16) ∧
    evictOne (some 15) ((List.range 16).map newPeer) = some (((List.range 16).map newPeer).eraseIdx 14) ∧
    evictOne (some 3) [newPeer 3, peer9 true] = none := by decide +kernel

/-- A slot that stands in OFFERED, SENDING or AWAITING in a state that `withSlot` makes is slot 0. -/
theorem only_slot0 {s : State} {sl : Slot}
    (h : s.ts.slots = (Vector.replicate 16 none).set 0 (some sl)) :
    ∀ m sm, slotAt s m = some sm → sm.holdsPeer → m = 0 := by
  intro m sm e _
  by_contra hm
  have hm' : (0 : Nat) ≠ m.val := fun k => hm (Fin.ext k.symm)
  simp [slotAt, h, hm'] at e

/-- The four cases of `SlotStopped`, in ONLINE and in LOOP. -/
theorem slotStopped_cases (st : Station) :
    SlotStopped (setStation st online) (setStation st online) ∧
    (∃ u, SlotStopped (setStation st offered) u) ∧
    (∃ u, SlotStopped (setStation st (sending .data .send 10)) u) ∧
    ∃ u, SlotStopped (setStation st awaiting) u := by
  refine ⟨.inl ⟨?_, rfl⟩, ⟨_, .inr ⟨0, slot0 .offered .data, rfl, only_slot0 rfl, .inl ⟨rfl, rfl, rfl⟩⟩⟩,
    ⟨_, .inr ⟨0, slot0 .sending .data, rfl, only_slot0 rfl,
      .inr (.inl ⟨rfl, ⟨driven (.slot 0 []) 10, [], rfl, rfl⟩, rfl⟩)⟩⟩,
    ⟨_, .inr ⟨0, slot0 .awaiting .data, rfl, only_slot0 rfl, .inr (.inr ⟨rfl, rfl⟩)⟩⟩⟩
  intro n sl e
  have : slotAt online n = some sl := e
  simp [slotAt, online, State.reset, Ts.reset] at this

theorem witness_GoOnlineByTheStateFound :
    online.resetLow = false ∧ State.reset.sc.address = none ∧
    (after .setAddress (withArgs 0 0 0 0 State.reset)).sc.address ≠ none ∧
    (after .setAddress (withArgs 0 0 0 0 State.reset)).sc.station = .offline ∧
    listening.sc.station = .listen ∧ online.sc.station = .online ∧
    (setStation .silent online).sc.station = .silent ∧ (setStation .loop online).sc.station = .loop ∧
    online.sc.address ≠ none ∧
    setStation .loop awaiting = { setStation .loop awaiting with
      lac := { (setStation .loop awaiting).lac with faults := 0 } } ∧
    ∃ u, SlotStopped (setStation .loop awaiting) u :=
  ⟨rfl, rfl, by decide +kernel, by decide +kernel, rfl, rfl, rfl, rfl, by decide, rfl,
    (slotStopped_cases .loop).2.2.2⟩

theorem witness_StationCommandsOffTheLine :
    State.reset.sc.station = .offline ∧ State.reset.sc.address = none ∧
    (after .setAddress (withArgs 47 0 0 0 State.reset)).sc.address ≠ none ∧
    online.sc.station ≠ .offline ∧ listening.sc.station = .listen ∧
    (setStation .silent online).sc.station = .silent ∧
    (∃ u, SlotStopped (setStation .loop offered) u) ∧
    ∃ u, SlotStopped (setStation .online (sending .data .send 10)) u :=
  ⟨rfl, rfl, by decide +kernel, by decide, rfl, rfl, (slotStopped_cases .loop).2.1,
    (slotStopped_cases .online).2.2.1⟩

theorem witness_LeavingOnlineCutsTheFrame :
    SlotStopped (setStation .online online) (setStation .online online) ∧
    (∃ u, SlotStopped (setStation .online awaiting) u) ∧
    (sending .data .send 10).lac.burst = some (driven (.slot 0 []) 10) ∧
    slotAt (sending .data .send 10) 0 = some (slot0 .sending .data) ∧
    (sending .data .send 10).lac.mode.drives ∧ (sending .data .send 10).lac.offer = none ∧
    (sending .data .send 10).fr.record = none ∧
    (∀ m, slotIn (sending .data .send 10) .awaiting m = false) ∧
    noticeCommitted (sending .data .send 10) = false ∧
    (sending .data .send 10).sc.station = .online :=
  ⟨(slotStopped_cases .online).1, (slotStopped_cases .online).2.2.2, by decide +kernel⟩

theorem witness_SetAddressOnlyOffline :
    47 < (withArgs 48 0 0 0 online).hp.args.b0.toNat ∧ (withArgs 48 0 0 0 online).hp.args.b0 ≠ 0xFF ∧
    (withArgs 47 0 0 0 online).hp.args.b0.toNat ≤ 47 ∧ (withArgs 0xFF 0 0 0 online).hp.args.b0 = 0xFF ∧
    online.sc.station ≠ .offline ∧ State.reset.sc.station = .offline := by decide +kernel

theorem witness_ClearResetsTheCollections :
    full.resetLow = false ∧ exec .clear full = .next (after .clear full) := ⟨rfl, rfl⟩

theorem witness_ReadsWithASideEffect :
    online.resetLow = false ∧ full.resetLow = false ∧ State.reset.sc.address = none ∧
    { online.sc with address := some 47 }.address = some 47 ∧ full.rq.entries.length ≤ 24 ∧
    full.bp.free.length ≤ 128 ∧ online.rq.entries = [] ∧ (holding false false).rq.entries
      = entryG :: [{ entryG with chain := [126] }] ∧
    entryG.src ≤ 47 ∧ { entryG with src := 47 }.src ≤ 47 ∧ entryG.dest ≤ 63 ∧ entryG.length ≤ 240 ∧
    entryG.declared.getD 0 ≤ 240 := by decide +kernel

theorem witness_ClearCountersSetsAllToZero :
    full.resetLow = false ∧ gives .clear full (fun _ => true) = true ∧
    gives .resetAsserted full (fun _ => true) = true := by decide +kernel

theorem witness_UnknownCodesChangeNothing :
    (0x00 : Byte).toNat ∉ [0x10, 0x11, 0x12, 0x13, 0x20, 0x21, 0x22, 0x23, 0x30, 0x31, 0x38, 0x39, 0x40,
      0x41, 0x42, 0x43, 0x44, 0x4F, 0x50] ∧
    (0x51 : Byte).toNat ∉ [0x10, 0x11, 0x12, 0x13, 0x20, 0x21, 0x22, 0x23, 0x30, 0x31, 0x38, 0x39, 0x40,
      0x41, 0x42, 0x43, 0x44, 0x4F, 0x50] := by decide

theorem witness_CounterSelect :
    [Counter.sent, .lostContention, .echoFault, .received, .damaged, .stray, .duplicate,
      .dropped][(0 : Byte).toNat]? = some .sent ∧
    [Counter.sent, .lostContention, .echoFault, .received, .damaged, .stray, .duplicate,
      .dropped][(7 : Byte).toNat]? = some .dropped ∧ 7 < (8 : Byte).toNat := by decide

theorem witness_WindowSelectAndOffset :
    (0x0F : Byte) = byteOf (15 : SlotId).val ∧ 16 < (0x11 : Byte).toNat ∧ (239 : Byte).toNat ≤ 239 ∧
    239 < (240 : Byte).toNat ∧ online.hp.winSel = .slot 0 ∧
    (after (.winselWrite 0x10) online).hp.winSel = .rxHead ∧ (windowed online 240).hp.winOfs ≤ 240 := by
  decide +kernel

theorem witness_WindowDataAccess :
    slotAt (windowed loading 3) 0 = some (slot0 .loading .data) ∧
    (windowed loading 3).hp.winSel = .slot 0 ∧ (slot0 .queued .data).phase.outcome = none ∧
    messageAddress (slot0 .loading .data).chain 3 = some 3 ∧
    Memory.wf (windowed loading 3).bp.mem = true ∧
    (after (.winselWrite 0x10) (holding false false)).hp.winSel = .rxHead ∧
    (holding false false).rq.entries = entryG :: [{ entryG with chain := [126] }] ∧
    messageAddress entryG.chain 24 = some 4088 ∧ entryG.length ≤ 25 ∧ online.rq.entries = [] := by
  decide +kernel

/-- The refusals by the slot (R194): FREE, LOADING at its length, QUEUED for a write, DONE for a read. -/
theorem witness_WindowDataAccess_refused :
    (slotAt online 0).all (fun sl => sl.phase != .loading || decide (sl.length ≤ 0)) = true ∧
    (slotAt (windowed loading 4) 0).all (fun sl => sl.phase != .loading || decide (sl.length ≤ 4)) = true ∧
    (slotAt (windowed queued 0) 0).all (fun sl => sl.phase != .loading || decide (sl.length ≤ 0)) = true ∧
    (slotAt (windowed finished 0) 0).all (fun sl => sl.phase.outcome != none || decide (sl.length ≤ 0))
      = true := by decide +kernel

theorem witness_InterruptEnablesAndIdentification :
    (registerByte (after (.intenWrite 0x10) finished) 0x0D).toNat = Cause.txDone.priority := by
  decide +kernel

theorem witness_ConfigurationWrites :
    (0x0F : Byte).toNat * 256 + 0xFF = 4095 ∧ (0x10 : Byte).toNat * 256 + 0 = 4096 ∧
    State.reset.sc.station = .offline ∧ online.sc.station ≠ .offline ∧ online.cfg.div ≤ 4095 ∧
    24 < (25 : Byte).toNat ∧ (12 : Byte).toNat ≤ online.cfg.lowat ∧
    online.cfg.lowat < (13 : Byte).toNat ∧ (24 : Byte).toNat ≤ 24 ∧
    23 < (24 : Byte).toNat ∧ online.cfg.hiwat ≤ (20 : Byte).toNat ∧
    (19 : Byte).toNat < online.cfg.hiwat := by decide +kernel

theorem witness_OtherRegisterWrites :
    (0x00 : BitVec 6).toNat ∈ [0x00, 0x01, 0x03, 0x08] ∧ 0x33 ≤ (0x33 : BitVec 6).toNat ∧
    0x33 ≤ (0x3F : BitVec 6).toNat := by decide

/-- No mark is left to take at a count below 10, nor where the mode has none. -/
theorem marksTaken_cases :
    MarksTaken online ∧ MarksTaken awaiting ∧ MarksTaken (quietAt 4 awaiting) ∧
    MarksTaken (quietAt 9 awaiting) ∧ MarksTaken (recovering 10) ∧ MarksTaken (recovering 11) ∧
    MarksTaken (receiving .check rxCheck) := by
  refine ⟨?_, ?_, ?_, ?_, ?_, ?_, ?_⟩ <;>
    exact ⟨by decide +kernel, by decide +kernel, fun _ c => by cases c <;> decide +kernel⟩

theorem witness_StartBitByTheReceiverState :
    online.sc.station.readsLine ∧ online.lac.mode.drives = false ∧ online.fr.mode = .hunt ∧
    online.fr.guard = false ∧ MarksTaken online ∧
    (quietAt 4 awaiting).fr.guard = true ∧ 4 ≤ (quietAt 4 awaiting).lac.quiet ∧
    MarksTaken (quietAt 4 awaiting) ∧ (quietAt 3 awaiting).lac.quiet < 4 ∧ awaiting.fr.record = none ∧
    { awaiting with lac := { awaiting.lac with window := none } }.lac.window = none ∧
    (recovering 10).lac.quiet < 11 ∧ MarksTaken (recovering 10) ∧ 11 ≤ (recovering 11).lac.quiet ∧
    MarksTaken (recovering 11) ∧ (recovering 11).sc.station.readsLine ∧
    (receiving .check rxCheck).fr.record = some rxCheck ∧
    (receiving .check rxCheck).lac.mode.drives = false ∧ MarksTaken (receiving .check rxCheck) ∧
    dueMarks (quietAt 4 awaiting) = .gapGuardClear :: [] ∧
    exec .gapGuardClear (quietAt 4 awaiting) = .next (after .gapGuardClear (quietAt 4 awaiting)) ∧
    (setStation .loop online).sc.station = .loop :=
  ⟨rfl, rfl, rfl, rfl, marksTaken_cases.1, rfl, by decide, marksTaken_cases.2.2.1, by decide, rfl, rfl, by decide,
    marksTaken_cases.2.2.2.2.1, by decide, marksTaken_cases.2.2.2.2.2.1, rfl, rfl, rfl,
    marksTaken_cases.2.2.2.2.2.2, by decide +kernel, rfl, rfl⟩

/-- A character arrives from the line: the next one still in time, the start bit seen, or LAC in RECEIVE. -/
theorem arrives_line (m : FrMode) (r : Rx) (v : Byte) (st : LineBit) (q : Nat) (h : r.leadBits = [])
    (hq : r.inChar = true ∨ q < 11) :
    CharacterArrives v st (quietAt q (receiving m r)) r v st (quietAt q (receiving m r)) :=
  ⟨rfl, rfl, .inl ⟨rfl, rfl, hq.imp_right fun k => .inr ⟨rfl, k⟩, by rw [h, completedByte_nil], rfl, rfl⟩⟩

/-- A character arrives on the internal path of LOOP. -/
theorem arrives_loop (m : FrMode) (r : Rx) (v : Byte) (st : LineBit) (h : r.leadBits = []) :
    CharacterArrives v st (looping m (some r)) r 0 .recessive
      { looping m (some r) with lac := { (looping m (some r)).lac with path := frameA.drop 6 } } :=
  ⟨rfl, rfl, .inr ⟨rfl, rfl, 0, frameA.drop 6, show frameA.drop 5 = 0 :: frameA.drop 6 by decide +kernel,
    by rw [h, completedByte_nil], rfl⟩⟩

/-- LEAD 85h lost at its first data bit to a LEAD that goes on with C8h's bits: the bit taken over and the seven
that the line adds make 48h, the LEAD of class 1 from node 8 (R29, R97). -/
theorem test_lost_lead_is_completed_from_the_line :
    (after (.contentionLost 0) (sending .data .contend 0)).fr.record.map (fun r => r.leadBits)
      = some [.dominant] ∧
    gives (.characterReceived 0xC8 .recessive) (after (.contentionLost 0) (sending .data .contend 0)) (fun t =>
      t.fr.record.map (fun r => (r.cls, r.src, r.count, r.leadBits)) == some (.control, 8, 1, [])) = true := by
  decide +kernel

/-- What FR has of a lead lost at its last data bit. -/
def lostLead : Rx := { Rx.empty with leadBits := (dataBits 0x85).take 7 ++ [.dominant] }

theorem witness_HeaderCharactersAreRecorded_lostLead :
    CharacterArrives 0xFF .recessive (receiving .header lostLead) lostLead 0x84 .recessive
      (receiving .header lostLead) ∧
    lostLead.leadBits.length ≤ 8 ∧ lostLead.leadBits[(7 : Fin 8).val]? = some .dominant ∧
    [LineBit.dominant][(1 : Fin 8).val]? = none ∧ (0x84 : Byte).toNat % 64 ≤ 47 ∧
    Class.toNat .normal = (0x84 : Byte).toNat / 64 :=
  ⟨⟨rfl, rfl, .inl ⟨rfl, rfl, .inl rfl, by decide +kernel, rfl, rfl⟩⟩, by decide +kernel⟩

theorem witness_HeaderCharactersAreRecorded :
    CharacterArrives 0xEF .recessive (quietAt 10 (receiving .header Rx.empty)) Rx.empty 0xEF .recessive
      (quietAt 10 (receiving .header Rx.empty)) ∧
    Rx.empty.count = 0 ∧ (0xEF : Byte).toNat % 64 ≤ 47 ∧ Class.toNat .bulk = (0xEF : Byte).toNat / 64 ∧
    kindCode .data = (0x1F : Byte).toNat / 16 ∧ kindCode .ready = (0x50 : Byte).toNat / 16 ∧
    (47 : Byte).toNat ≤ 47 ∧ (63 : Byte).toNat ≤ 63 ∧ rxBody.kind = .datagram ∧
    47 < (0x30 : Byte).toNat % 64 ∧ (0x0F : Byte).toNat / 16 = 0 ∧ 5 < (0x60 : Byte).toNat / 16 ∧
    47 < (48 : Byte).toNat ∧ 63 < (64 : Byte).toNat ∧ (62 : Byte).toNat ≠ 63 ∧ 240 < (241 : Byte).toNat ∧
    16 < (17 : Byte).toNat :=
  ⟨arrives_line .header Rx.empty 0xEF .recessive 10 rfl (.inr (by decide)), by decide +kernel⟩

theorem witness_LengthMakesTheClaim :
    (∃ u, CharacterArrives 0 .recessive (looping .header (some { rxBody with count := 3, chain := [] }))
      { rxBody with count := 3, chain := [] } 0 .recessive u) ∧
    rxBody.accepted = some .own ∧ (240 : Byte).toNat ≤ 240 ∧ blocksFor 240 ≤ online.bp.free.length ∧
    online.rq.entries.length < 24 ∧ ([] : List Block).length < blocksFor 1 ∧
    { rxBody with accepted := none }.accepted = none ∧ { rxBody with kind := .ready }.kind = .ready ∧
    (16 : Byte).toNat ≤ 16 ∧ { rxBody with kind := .busy }.kind = .busy :=
  ⟨⟨_, arrives_loop .header _ 0 .recessive rfl⟩, by decide +kernel⟩

theorem witness_PayloadIsStoredAtItsOffset :
    CharacterArrives 0x77 .recessive (quietAt 1 (receiving .body rxBody)) rxBody 0x77 .recessive
      (quietAt 1 (receiving .body rxBody)) ∧
    (receiving .body rxBody).fr.record = some rxBody ∧ rxBody.claim = .succeeded ∧
    Memory.wf (receiving .body rxBody).bp.mem = true ∧
    messageAddress rxBody.chain rxBody.received = some 0 ∧
    { rxBody with claim := .failed }.claim ≠ .succeeded ∧ { rxBody with kind := .ready }.kind = .ready ∧
    { rxCheck with count := 5 }.count = { rxCheck with count := 5 }.length + 4 :=
  ⟨arrives_line .body rxBody 0x77 .recessive 1 rfl (.inr (by decide)), by decide +kernel⟩

/-- The second CHECK character of the record. -/
def lastCheck : Byte := rxCheck.crc.extractLsb' 0 8

/-- A record at its frame end, on the line. -/
theorem frameEnds (r : Rx) (h : r.leadBits = []) (hc : r.count = match r.kind with
    | .ack | .busy => 5
    | _ => r.length + 5) :
    FrameEnds lastCheck .recessive (quietAt 2 (receiving .check r)) r lastCheck
      (quietAt 2 (receiving .check r)) :=
  ⟨arrives_line .check r lastCheck .recessive 2 h (.inr (by decide)), rfl, hc⟩

theorem witness_GoodDatagramIsAppended :
    FrameEnds lastCheck .recessive (quietAt 2 (receiving .check rxCheck)) rxCheck lastCheck
      (quietAt 2 (receiving .check rxCheck)) ∧
    FrameEnds lastCheck .recessive (quietAt 2 (receiving .check { rxCheck with kind := .ready }))
      { rxCheck with kind := .ready } lastCheck
      (quietAt 2 (receiving .check { rxCheck with kind := .ready })) ∧
    CharacterArrives 0x77 .dominant (quietAt 2 (receiving .body rxBody)) rxBody 0x77 .dominant
      (quietAt 2 (receiving .body rxBody)) ∧
    rxCheck.kind = .datagram ∧ rxCheck.accepted = some .own ∧ rxCheck.claim = .succeeded ∧
    rxCheck.chain.length = blocksFor rxCheck.length ∧
    checkChars rxCheck.crc = [rxCheck.checkHigh, lastCheck] ∧
    checkChars rxCheck.crc ≠ [rxCheck.checkHigh + 1, lastCheck] ∧
    { rxCheck with claim := .failed }.claim ≠ .succeeded ∧ { rxCheck with accepted := none }.accepted = none ∧
    listening.sc.station = .listen ∧ rxCheck.candidate = false ∧
    findPeer [peer9 false] rxCheck.src = some (peer9 false) ∧ (peer9 false).holdoff = none ∧
    { peer9 false with holdoff := some 1 }.holdoff ≠ none ∧
    online.rq.entries = [] ∧ (holding false false).rq.entries ≠ [] ∧ online.rq.entries.length + 1 < online.cfg.hiwat ∧
    { online.cfg with hiwat := 1 }.hiwat ≤ online.rq.entries.length + 1 :=
  ⟨frameEnds rxCheck rfl rfl, frameEnds _ rfl rfl, arrives_line .body rxBody 0x77 .dominant 2 rfl (.inr (by decide)),
    by decide +kernel⟩

/-- What a READY frame names (R154): all, or this station. -/
theorem witness_readyNames :
    readyNames { rxCheck with list := [] } online ∧ readyNames { rxCheck with list := [3, 5] } online ∧
    ¬ readyNames { rxCheck with list := [3] } online := by
  refine ⟨.inl rfl, .inr ⟨5, by simp, rfl⟩, ?_⟩
  rintro (h | ⟨x, hx, h⟩)
  · simp at h
  · simp only [List.mem_singleton] at hx
    subst hx
    exact absurd h (by decide)

/-- Node 9's entry, last heard with SEQ 1. -/
def heard : Peer := { peer9 false with rxKnown := true, rxSeq := true }

theorem witness_ReceiverDecision :
    findPeer [heard] rxData.src = some heard ∧ rxData.kind = .data ∧
    (heard.rxKnown = true ∧ heard.rxSeq = rxData.seq ∧
      (rxData.resync = true → heard.rxResync = true)) ∧
    findPeer queued.pt rxData.src = some (peer9 false) ∧ (peer9 false).rxKnown = false ∧
    (holding false true).rq.paused = true ∧ (holding true false).rq.congested = true ∧
    queued.rq.paused = false ∧ queued.rq.congested = false ∧ rxData.claim = .succeeded ∧
    { rxData with claim := .failed }.claim ≠ .succeeded ∧
    rxData.chain.length = blocksFor rxData.length ∧
    (∀ p ∈ online.pt, p.node ≠ rxData.src) ∧ online.pt.length < 16 ∧
    (∀ p ∈ (List.range 16).map (fun k => newPeer (20 + k)), p.node ≠ rxData.src) ∧
    evictOne none ((List.range 16).map fun k => newPeer (20 + k))
      = some ((List.range 15).map fun k => newPeer (20 + k)) ∧
    (∀ p ∈ (List.range 16).map (fun k => { newPeer (20 + k) with active := true }),
      p.node ≠ rxData.src ∧ p.active = true) ∧
    16 ≤ ((List.range 16).map (fun k => { newPeer (20 + k) with active := true })).length := by
  decide +kernel

/-- R144, first row: 15 entries that are not evictable, and a DATA slot to a node without an entry. -/
theorem witness_ReceiverDecision_lastPlace :
    (∀ p ∈ (List.range 15).map (fun k => { newPeer (10 + k) with holdoff := some 256 }),
      p.node ≠ 40 ∧ (p.active = true ∨ p.holdoff.isSome)) ∧
    ((List.range 15).map (fun k => { newPeer (10 + k) with holdoff := some 256 })).length = 15 ∧
    slotAt decided 0 = some (slot0 .queued .data) ∧ (slot0 .queued .data).kind = .data ∧
    (∀ p ∈ decided.pt, p.node ≠ (slot0 .queued .data).dest) := by decide +kernel

theorem witness_ReceiverDecision_atFrameEnd :
    FrameEnds lastCheck .recessive (quietAt 2 (receiving .check rxData)) rxData lastCheck
      (quietAt 2 (receiving .check rxData)) ∧
    checkChars rxData.crc = [rxData.checkHigh, lastCheck] ∧ rxData.accepted = some .own ∧
    (quietAt 2 (receiving .check rxData)).sc.station = .online :=
  ⟨frameEnds rxData rfl rfl, by decide +kernel⟩

theorem witness_MarksOfTheQuietCount :
    awaiting.fr.mode = .hunt ∧ awaiting.fr.guard = true ∧
    (recovering 10).fr.mode = .recover ∧ (recovering 10).sc.station.readsLine ∧
    (recovering 10).lac.quiet < 11 ∧ 11 ≤ (recovering 11).lac.quiet ∧
    online.lac.mode = .quiet ∧ (demote .bulk online).lac.demoted.get .bulk = true ∧
    (receiving .body rxBody).lac.mode = .receive ∧ (receiving .body rxBody).fr.record = some rxBody ∧
    rxBody.inChar = false ∧ rxBody.accepted = some .own ∧ rxBody.claim = .succeeded ∧
    (recovering 10).lac.mode.drives = false ∧ (recovering 10).fr.record = none := by decide +kernel

/-- A character of another station in RECOVER leaves the recessive bits that end it in the count (R96, R5). -/
theorem test_character_in_recover :
    gives (.characterReceived 0x03 .recessive) (recovering 10) (fun t =>
      t.lac.quiet == 3 && t.fr.mode == .recover && t.ctr == .zero) = true := by decide +kernel

theorem witness_MarksOfTheQuietCount_taken : MarksTaken (recovering 10) := marksTaken_cases.2.2.2.2.1

/-- A READY notice being sent, with a deferred part. -/
def noticing (m : LacMode) (bits : Nat) : State :=
  { online with
    lac := { online.lac with mode := m, burst := some (driven .notice bits) }
    rq := { online.rq with
      notice := some { contents := .list [7], committed := true, deferred := some (.list [7, 3]) } } }

theorem witness_LeadStartCommitsTheSlot :
    offered.sc.station = .online ∧ offered.sc.address = some 5 ∧ offered.lac.mode = .quiet ∧
    offered.lac.order = none ∧ offered.lac.window = none ∧ offered.fr.mode = .hunt ∧
    offered.lac.offer = some (.slot 0) ∧ slotAt offered 0 = some (slot0 .offered .data) ∧
    messageBytes offered [0] 4 = some [0, 0, 0, 0] ∧
    findPeer offered.pt 9 = some (peer9 true) ∧ (0x11 : Byte) = byteOf (16 + 0 + 1) ∧
    (slot0 .offered .datagram).kind = .datagram ∧ (setStation .loop offered).sc.station = .loop ∧
    { online.lac with offer := some .notice }.offer = some .notice ∧
    (noticing .quiet 0).rq.notice
      = some { contents := .list [7], committed := true, deferred := some (.list [7, 3]) } := by decide +kernel

theorem witness_ContentionIsLostOrWon :
    (sending .data .contend 0).sc.station = .online ∧ (sending .data .contend 0).lac.mode = .contend ∧
    (sending .data .contend 0).lac.burst = some (driven (.slot 0 []) 0) ∧
    frameA = 0x85 :: frameA.tail ∧ (0x85 : Byte).getLsbD (7 - 0) = true ∧
    (0x85 : Byte).getLsbD (7 - 7) = true ∧
    slotAt (sending .data .contend 0) 0 = some (slot0 .sending .data) ∧
    (sending .data .contend 0).fr.record = none ∧
    (driven (.slot 0 []) 1).bits ≤ 0 + 1 ∧ (driven (.slot 0 []) 8).bits ≤ 7 + 1 ∧
    0 + 1 < (driven (.slot 0 []) 2).bits ∧
    (noticing .contend 1).lac.burst = some (driven .notice 1) ∧ (noticing .contend 1).fr.record = none ∧
    (setStation .loop online).sc.station = .loop := by decide +kernel

theorem witness_EchoFaultCutsTheFrame :
    (sending .data .send 10).lac.mode = .send ∧
    (sending .data .send 10).lac.burst = some (driven (.slot 0 []) 10) ∧
    (driven (.slot 0 []) 10).bits ≤ 10 ∧ 99 < 10 * frameA.length ∧
    (sending .data .contend 0).lac.mode = .contend ∧ frameBit frameA 2 = .dominant ∧
    responding.lac.mode = .respond ∧ responding.lac.burst = some (driven .response 60) ∧
    (driven .response 60).bits ≤ 60 ∧ 60 < 10 * frameA.length ∧ responding.fr.record = none ∧
    (noticing .send 10).lac.mode = .send ∧ (noticing .send 10).rq.notice
      = some { contents := .list [7], committed := true, deferred := some (.list [7, 3]) } ∧
    slotAt (sending .data .send 10) 0 = some (slot0 .sending .data) ∧
    (sending .data .send 10).fr.record = none ∧ min 15 (0 + 1) < (sending .data .send 10).cfg.faultlim ∧
    { Cfg.reset with faultlim := 1 }.faultlim ≤ min 15 (0 + 1) := by decide +kernel

theorem witness_EchoFaultCutsTheFrame_stopped : ∃ w, SlotStopped (setStation .online awaiting) w :=
  (slotStopped_cases .online).2.2.2

theorem witness_FrameSentByItsKind :
    (sending .datagram .send 100).sc.station = .online ∧ (setStation .loop online).sc.station = .loop ∧
    (sending .datagram .send 100).lac.burst = some (driven (.slot 0 []) 100) ∧
    slotAt (sending .datagram .send 100) 0 = some (slot0 .sending .datagram) ∧
    slotAt (sending .data .send 100) 0 = some (slot0 .sending .data) ∧
    (noticing .send 100).lac.burst = some (driven .notice 100) ∧ (noticing .send 100).rq.notice
      = some { contents := .list [7], committed := true, deferred := some (.list [7, 3]) } := by
  decide +kernel

theorem witness_ResponseIsSent :
    ordered.sc.station = .online ∧ ordered.lac.order
      = some { kind := .ack, reason := 0, seq := true, dest := 5, createdAt := none } ∧ ordered.sc.address = some 9 ∧
    ordered.lac.mode = .quiet ∧ ordered.fr.mode = .hunt ∧ (setStation .loop ordered).sc.station = .loop ∧
    responding.lac.mode = .respond ∧ responding.lac.burst = some (driven .response 60) := by decide +kernel

/-- With a window open a response is held in LOOP alone: the marks are taken up to a count of 9. -/
theorem witness_ResponseIsSent_taken : MarksTaken ordered ∧ MarksTaken (quietAt 9 awaiting) :=
  ⟨⟨by decide +kernel, by decide +kernel, fun _ c => by cases c <;> decide +kernel⟩, marksTaken_cases.2.2.2.1⟩

theorem witness_WindowEndsUnanswered :
    awaiting.lac.mode = .quiet ∧ awaiting.lac.window = some 0 ∧
    slotAt awaiting 0 = some (slot0 .awaiting .data) ∧ awaiting.fr.mode = .hunt ∧
    awaiting.sc.station.readsLine ∧ awaiting.lac.mode.drives = false ∧ awaiting.fr.guard = true ∧
    (quietAt 3 awaiting).lac.quiet < 4 ∧
    awaiting.fr.record = none ∧ ∀ m, m ≠ 0 → slotIn awaiting .awaiting m = false := by decide +kernel

/-- The ACK of node 9 to slot 0's frame, at its frame end. -/
def rxAck : Rx :=
  { rxCheck with kind := .ack, seq := true, count := 5, candidate := true, length := 0, chain := [] }

/-- Slot 0 AWAITING while that ACK is received. -/
def answered : State :=
  let s := receiving .check rxAck
  withSlot (slot0 .awaiting .data) (quietAt 2 s)

theorem witness_ValidResponses :
    slotAt awaiting 0 = some (slot0 .awaiting .data) ∧
    findPeer awaiting.pt (slot0 .awaiting .data).dest = some (peer9 true) ∧
    FrameEnds lastCheck .recessive answered rxAck lastCheck answered ∧
    checkChars rxAck.crc = [rxAck.checkHigh, lastCheck] ∧ rxAck.candidate = true ∧
    slotAt answered 0 = some (slot0 .awaiting .data) ∧
    (∀ m, m ≠ 0 → slotIn answered .awaiting m = false) ∧
    rxAck.src = (slot0 .awaiting .data).dest ∧ answered.sc.address = some rxAck.dest ∧
    rxAck.seq = (slot0 .awaiting .data).sentSeq ∧
    { rxAck with seq := false }.seq ≠ (slot0 .awaiting .data).sentSeq ∧
    { rxAck with kind := .busy }.kind = .busy :=
  ⟨by decide +kernel, by decide +kernel,
    ⟨⟨rfl, rfl, .inl ⟨rfl, rfl, .inr (.inl (by decide)), (completedByte_nil _).symm, rfl, rfl⟩⟩, rfl, rfl⟩,
    by decide +kernel⟩

theorem witness_TimersExpire :
    { peer9 false with holdoff := some 1 } ∈ [{ peer9 false with holdoff := some 1 }] ∧
    { peer9 false with holdoff := some 1 }.holdoff ≠ none ∧
    ([{ peer9 false with holdoff := some 1 }].map Peer.node).Nodup ∧
    { online with rq := { online.rq with stale := some 4096 } }.rq.stale ≠ none := by decide +kernel

end Sys2Proof.Tests
end

section
/-! SUPPORT. The check of R17: a register run on through its own characters. -/

namespace Sys2Proof.Machine

open Sys2Proof

/-- The level that carries a data bit gives the bit back (11.7). -/
@[simp] theorem dataBit_lineBit (b : Bool) : dataBit (lineBit b) = b := by
  cases b <;> rfl

/-- The data bits of a character are taken in from bit 7 down to bit 0. -/
theorem crcByte_eq (crc : Word) (b : Byte) :
    crcByte crc b = (List.range 8).foldl (fun r k => crcBit r (b.getLsbD (7 - k))) crc := by
  simp [crcByte, dataBits, List.range_succ]

/-- A data bit equal to the register's top bit only shifts the register. -/
theorem crcBit_of_msb_eq {crc : Word} {d : Bool} (h : crc.msb = d) : crcBit crc d = crc <<< 1 :=
  if_pos h

/-- The top bit after `k` shifts is the bit that stood `k` places below the top. -/
theorem msb_shiftLeft {crc : Word} {k : Nat} (hk : k < 16) : (crc <<< k).msb = crc.getLsbD (15 - k) := by
  rw [BitVec.msb_eq_getLsbD_last, BitVec.getLsbD_shiftLeft]
  simp only [Nat.add_one_sub_one, Nat.lt_add_one, decide_true, Bool.true_and, show ¬ 15 < k by omega,
    decide_false, Bool.not_false]

/-- A register that takes in its own bits from the top meets its own top bit each time, so it is only shifted. -/
theorem foldl_crcBit_own (crc : Word) (n : Nat) (hn : n ≤ 16) :
    (List.range n).foldl (fun r k => crcBit r (crc.getLsbD (15 - k))) crc = crc <<< n := by
  induction n with
  | zero => simp
  | succ n ih =>
    rw [List.range_succ, List.foldl_append, ih (by omega), List.foldl_cons, List.foldl_nil,
      crcBit_of_msb_eq (msb_shiftLeft (by omega)), BitVec.shiftLeft_add]

theorem crcByte_own_high (crc : Word) : crcByte crc (crc.extractLsb' 8 8) = crc <<< 8 := by
  rw [crcByte_eq, ← foldl_crcBit_own crc 8 (by omega)]
  simp [List.range_succ]

/-- A register run on through its two CHECK characters has every bit shifted out. -/
theorem foldl_crcByte_checkChars (crc : Word) : (checkChars crc).foldl crcByte crc = 0 := by
  have low : crc.extractLsb' 0 8 = (crc <<< 8).extractLsb' 8 8 := by
    ext i hi
    simp [BitVec.getLsbD_eq_getElem (show i < 16 by omega), show 8 + i < 16 by omega]
  calc (checkChars crc).foldl crcByte crc
      = crcByte (crcByte crc (crc.extractLsb' 8 8)) (crc.extractLsb' 0 8) := rfl
    _ = crcByte (crc <<< 8) ((crc <<< 8).extractLsb' 8 8) := by rw [crcByte_own_high, low]
    _ = (crc <<< 8) <<< 8 := crcByte_own_high _
    _ = 0 := by rw [← BitVec.shiftLeft_add]; exact BitVec.shiftLeft_eq_zero (by omega)

/-- The check over a whole frame is that of its covered characters, run on through the CHECK characters. -/
theorem crcOf_withCheck (covered : List Byte) : crcOf (withCheck covered) = 0 := by
  rw [withCheck, crcOf, List.foldl_append]
  exact foldl_crcByte_checkChars (crcOf covered)

/-- Settles O60: each CHECK character is the register's own high byte when it is taken in, so the two shift the
register out (R17). -/
theorem checkRunsOnToZero : Obligations.CheckRunsOnToZero :=
  ⟨crcOf_withCheck, by decide, by decide +kernel⟩

end Sys2Proof.Machine
end

section
/-! SUPPORT. A step on an empty queue: the rows that are due, or one bit-time and the rows that it brings. -/

namespace Sys2Proof.Machine

open Sys2Proof

/-! ### The step on an empty queue -/

theorem step_of_nothing_waiting {s : State} (h : s.pending = []) : step s = .next (idle s) := by
  simp [step, h]

theorem idle_of_rows_due {s : State} (h : dueRows s ≠ []) : idle s = { s with pending := dueRows s } := by
  unfold idle
  split
  · contradiction
  · rfl

theorem idle_of_no_row_due {s : State} (h : dueRows s = []) : idle s = bitTime s := by
  simp [idle, h]

/-- The rows that a bit-time brings, read off the state at its end. -/
def broughtRows (s : State) : List Instr := expiries s ++ dueSilence s ++ dueMarks s

theorem bitTime_of_reset_high {s : State} (h : s.resetLow = false) :
    bitTime s = { tickLine (tickTimers s) with pending := broughtRows (tickLine (tickTimers s)) } := by
  simp [bitTime, h, broughtRows]

/-- The state after a bit-time in which the running station drives nothing, but for the rows it brings. -/
def afterSilentBit (s : State) : State :=
  { s with
    lac := { s.lac with quiet := s.lac.quiet + 1 }
    rq := { s.rq with stale := s.rq.stale.map fun n => n + 1 }
    pt := s.pt.map .tick }

theorem tickLine_tickTimers_of_silent {s : State} (hruns : s.sc.station.runs) (hburst : s.lac.burst = none) :
    tickLine (tickTimers s) = afterSilentBit s := by
  simp [tickLine, hruns, hburst, tickTimers, afterSilentBit]

/-- A step on an empty queue with no row due, at a running station that drives nothing. -/
theorem step_of_silent_bit {s : State} (hpending : s.pending = []) (hdue : dueRows s = [])
    (hreset : s.resetLow = false) (hruns : s.sc.station.runs) (hburst : s.lac.burst = none) :
    step s = .next { afterSilentBit s with pending := broughtRows (afterSilentBit s) } := by
  rw [step_of_nothing_waiting hpending, idle_of_no_row_due hdue, bitTime_of_reset_high hreset,
    tickLine_tickTimers_of_silent hruns hburst]

/-! ### The timers -/

@[simp] theorem Peer.tick_node (p : Peer) : p.tick.node = p.node := rfl

/-- A holdoff stands at 0 after a bit-time when one bit-time was left of it, or none. -/
theorem Peer.tick_holdoff_eq_zero (p : Peer) :
    p.tick.holdoff = some 0 ↔ p.holdoff = some 1 ∨ p.holdoff = some 0 := by
  cases h : p.holdoff with
  | none => simp [Peer.tick, h]
  | some left =>
    have count : left - 1 = 0 ↔ left = 1 ∨ left = 0 := by omega
    simpa [Peer.tick, h] using count

/-! ### What each list of rows holds -/

@[simp] theorem mem_expiries {s : State} {i : Instr} :
    i ∈ expiries s ↔
      (∃ p ∈ s.pt, p.holdoff = some 0 ∧ Instr.holdoffExpiry p.node = i) ∨
      (i = .staleTimerExpiry ∧ ∃ n, s.rq.stale = some n ∧ s.cfg.stale * 256 ≤ n) := by
  unfold expiries
  cases hstale : s.rq.stale with
  | none => simp [and_assoc]
  | some n =>
    by_cases hspan : s.cfg.stale * 256 ≤ n <;> simp [Config.span, hspan, and_assoc]

@[simp] theorem mem_dueSilence {s : State} {i : Instr} :
    i ∈ dueSilence s ↔
      i = .characterReceived 0xFF .recessive ∧ ∃ r, s.fr.record = some r ∧ r.inChar = true ∧
        s.sc.station.readsLine = true ∧ s.fr.mode.receiving = true ∧ s.lac.mode.drives = false ∧
        silentTail r ≤ s.lac.quiet := by
  unfold dueSilence characterBegun
  cases hrecord : s.fr.record with
  | none => simp
  | some r => simp [and_assoc, and_comm, and_left_comm]

@[simp] theorem mem_dueReceiver {s : State} {i : Instr} :
    i ∈ dueReceiver s ↔
      (i = .gapGuardClear ∧ s.fr.mode = .hunt ∧ s.fr.guard = true ∧ 4 ≤ s.lac.quiet) ∨
      (i = .gapLimitTruncation ∧ waitsForCharacter s = true ∧ 11 ≤ s.lac.quiet) ∨
      (i = .gapLimitRecover ∧ s.fr.mode = .recover ∧ 11 ≤ s.lac.quiet) := by
  simp [dueReceiver, Config.responseGap, Config.gapLimit, and_assoc, and_comm, and_left_comm]

@[simp] theorem mem_dueDeadline {s : State} {i : Instr} :
    i ∈ dueDeadline s ↔
      i = .noResponse ∧ s.lac.window ≠ none ∧ s.lac.mode = .quiet ∧ 10 ≤ s.lac.quiet := by
  simp [dueDeadline, Config.responseDeadline, Option.isSome_iff_ne_none, and_assoc, and_comm, and_left_comm]

theorem demotedThreshold_eq (c : Sys2Proof.Class) : Config.demotedThreshold c = 13 + 2 * c.toNat := by
  unfold Config.demotedThreshold Config.baseThreshold
  omega

@[simp] theorem mem_dueDemotions {s : State} {i : Instr} :
    i ∈ dueDemotions s ↔
      ∃ c, i = .demotionClear c ∧ s.lac.mode = .quiet ∧ s.lac.demoted.get c = true ∧
        13 + 2 * c.toNat ≤ s.lac.quiet := by
  have every (c : Sys2Proof.Class) : c ∈ [Class.urgent, .control, .normal, .bulk] := by
    cases c <;> decide
  simp only [dueDemotions, List.mem_map, List.mem_filter, every, true_and, demotedThreshold_eq,
    Bool.and_eq_true, beq_iff_eq, decide_eq_true_eq, ge_iff_le, eq_comm (a := i), and_comm, and_left_comm]

/-! ### The rows that a bit-time brings, row by row -/

theorem mem_broughtRows {s : State} {i : Instr} :
    i ∈ broughtRows s ↔ i ∈ expiries s ∨ i ∈ dueSilence s ∨ i ∈ dueReceiver s ∨ i ∈ dueDeadline s ∨
      i ∈ dueDemotions s := by
  simp [broughtRows, dueMarks]

section

variable {s : State}

theorem holdoffExpiry_mem_broughtRows {node : Nat} :
    .holdoffExpiry node ∈ broughtRows s ↔ ∃ p ∈ s.pt, p.node = node ∧ p.holdoff = some 0 := by
  simp [mem_broughtRows, and_comm]

theorem staleTimerExpiry_mem_broughtRows :
    .staleTimerExpiry ∈ broughtRows s ↔ ∃ n, s.rq.stale = some n ∧ s.cfg.stale * 256 ≤ n := by
  simp [mem_broughtRows]

theorem gapGuardClear_mem_broughtRows :
    .gapGuardClear ∈ broughtRows s ↔ s.fr.mode = .hunt ∧ s.fr.guard = true ∧ 4 ≤ s.lac.quiet := by
  simp [mem_broughtRows]

theorem gapLimitRecover_mem_broughtRows :
    .gapLimitRecover ∈ broughtRows s ↔ s.fr.mode = .recover ∧ 11 ≤ s.lac.quiet := by
  simp [mem_broughtRows]

theorem noResponse_mem_broughtRows :
    .noResponse ∈ broughtRows s ↔ s.lac.window ≠ none ∧ s.lac.mode = .quiet ∧ 10 ≤ s.lac.quiet := by
  simp [mem_broughtRows]

theorem demotionClear_mem_broughtRows {c : Sys2Proof.Class} :
    .demotionClear c ∈ broughtRows s ↔
      s.lac.mode = .quiet ∧ s.lac.demoted.get c = true ∧ 13 + 2 * c.toNat ≤ s.lac.quiet := by
  simp [mem_broughtRows]

theorem silentCharacter_mem_broughtRows {r : Rx} (hrecord : s.fr.record = some r)
    (hreceiving : s.fr.mode.receiving) (hin : r.inChar = true) (hreads : s.sc.station.readsLine)
    (hdrives : s.lac.mode.drives = false) (hquiet : silentTail r ≤ s.lac.quiet) :
    .characterReceived 0xFF .recessive ∈ broughtRows s :=
  mem_broughtRows.2 (.inr (.inl (mem_dueSilence.2
    ⟨rfl, r, hrecord, hin, hreads, hreceiving, hdrives, hquiet⟩)))

theorem gapLimitTruncation_mem_broughtRows {r : Rx} (hrecord : s.fr.record = some r)
    (hreceiving : s.fr.mode.receiving) (hin : r.inChar = false) (hquiet : 11 ≤ s.lac.quiet) :
    .gapLimitTruncation ∈ broughtRows s := by
  have hwaits : waitsForCharacter s = true := by simp [waitsForCharacter, hrecord, hreceiving, hin]
  simp [mem_broughtRows, hwaits, hquiet]

end

/-- The holdoffs that expire in a silent bit-time. -/
theorem holdoffExpiry_mem_afterSilentBit {s : State} {node : Nat} :
    .holdoffExpiry node ∈ broughtRows (afterSilentBit s) ↔
      ∃ p ∈ s.pt, p.node = node ∧ (p.holdoff = some 1 ∨ p.holdoff = some 0) := by
  simp [holdoffExpiry_mem_broughtRows, afterSilentBit, Peer.tick_holdoff_eq_zero]

/-- The stale timer expires in a silent bit-time when its next count reaches STALE × 256. -/
theorem staleTimerExpiry_mem_afterSilentBit {s : State} :
    .staleTimerExpiry ∈ broughtRows (afterSilentBit s) ↔
      ∃ n, s.rq.stale = some n ∧ s.cfg.stale * 256 ≤ n + 1 := by
  simp [staleTimerExpiry_mem_broughtRows, afterSilentBit]

/-- Settles O2: a step on an empty queue puts the due rows in it, or is the silent bit-time with the rows that it
brings, each of which is known by its own condition on the count or timer one further on. -/
theorem stepWithNothingWaiting : Obligations.StepWithNothingWaiting := by
  intro s hpending
  refine ⟨fun hdue => ?_, fun hdue hreset hruns hburst => ?_⟩
  · rw [step_of_nothing_waiting hpending, idle_of_rows_due hdue]
  refine ⟨_, step_of_silent_bit hpending hdue hreset hruns hburst, rfl, rfl, rfl,
    fun node => holdoffExpiry_mem_afterSilentBit, staleTimerExpiry_mem_afterSilentBit,
    fun r hrecord hreceiving => ⟨fun hin hreads hdrives hquiet => ?_, fun hin hquiet => ?_⟩,
    gapGuardClear_mem_broughtRows, gapLimitRecover_mem_broughtRows, noResponse_mem_broughtRows,
    fun c => demotionClear_mem_broughtRows⟩
  · have htail : silentTail r ≤ s.lac.quiet + 1 := by unfold silentTail; omega
    exact silentCharacter_mem_broughtRows (s := afterSilentBit s) hrecord hreceiving hin hreads hdrives htail
  · exact gapLimitTruncation_mem_broughtRows (s := afterSilentBit s) hrecord hreceiving hin hquiet

end Sys2Proof.Machine
end

section
/-! SUPPORT. What a row of the table can do to the line side of the part, said once: nothing, the body of a command,
the test of the water marks, or one of the rows of the resets and of the line. -/

namespace Sys2Proof.Machine

open Sys2Proof

/-- The states agree on the LAC mode and what LAC holds, the slots, the receiver mode, the notice, the peers, the
station state and the address: on everything that the laws of the station and of the offer look at. -/
structure SameLine (s t : State) : Prop where
  mode : t.lac.mode = s.lac.mode
  offer : t.lac.offer = s.lac.offer
  order : t.lac.order = s.lac.order
  window : t.lac.window = s.lac.window
  burst : t.lac.burst = s.lac.burst
  slots : t.ts.slots = s.ts.slots
  receiver : t.fr.mode = s.fr.mode
  notice : t.rq.notice = s.rq.notice
  peers : t.pt = s.pt
  station : t.sc.station = s.sc.station
  address : t.sc.address = s.sc.address

theorem SameLine.refl (s : State) : SameLine s s := by constructor <;> rfl

/-- The rows of the resets and of the line that move LAC, the receiver, a slot, the notice or a peer entry. -/
def movesLine : Instr → Bool
  | .resetAsserted | .resetReleased | .powerUp | .startBit | .characterReceived _ _
  | .gapGuardClear | .gapLimitTruncation | .gapLimitRecover | .demotionClear _
  | .leadStart | .contentionLost _ | .leadWon | .echoFault _
  | .frameSent | .responseStart | .responseSent | .noResponse | .holdoffExpiry _
  | .dominantBitInRecover => true
  | _ => false

/-- What a row that does not move the line leaves: the same line, what the body of a command makes of it, or what the
test of the water marks makes of it. -/
inductive HostSide (s : State) : State → Prop where
  | same {t : State} : SameLine s t → HostSide s t
  | command (c : HostCommand) {u : State} : SameLine s u → HostSide s (commandBody c u)
  | marks {u : State} : SameLine s u → HostSide s (testMarks u)

theorem HostSide.refl (s : State) : HostSide s s := .same (.refl s)

theorem sameLine_recordCode (code : Byte) (s : State) : SameLine s (recordCode code s) := by constructor <;> rfl

/-- A host access does what its function does, or nothing. -/
theorem hostSide_hostAccess {f : State → State} {s t : State} (hf : HostSide s (f s))
    (h : hostAccess f s = .next t) : HostSide s t := by
  unfold hostAccess at h
  split at h <;> cases h
  · exact .refl _
  · exact hf

theorem hostSide_command (c : HostCommand) (code : Byte) {s t : State}
    (h : hostAccess (fun u => commandBody c (recordCode code u)) s = .next t) : HostSide s t :=
  hostSide_hostAccess (f := fun u => commandBody c (recordCode code u))
    (.command c (sameLine_recordCode code s)) h

theorem hostSide_writeCmd (code : Byte) (s : State) : HostSide s (writeCmd code s) := by
  unfold writeCmd
  split
  · exact .same (by constructor <;> rfl)
  · exact .command _ (sameLine_recordCode code s)

theorem hostSide_hostRead {f : State → State} {s t : State} (hf : SameLine s (f s))
    (h : hostRead f s = .next t) : HostSide s t := by
  unfold hostRead at h
  split at h <;> cases h
  · exact .same (by constructor <;> rfl)
  · exact .same hf

theorem sameLine_readWindata {s t : State} (h : readWindata s = .next t) : SameLine s t := by
  unfold readWindata at h
  split at h
  · cases h; constructor <;> rfl
  · split at h <;> cases h
    constructor <;> rfl

theorem sameLine_writeWindata {v : Byte} {s t : State} (h : writeWindata v s = .next t) : SameLine s t := by
  unfold writeWindata at h
  split at h
  · cases h; constructor <;> rfl
  · next chain _ =>
    cases hstore : storeMessageByte chain s.hp.winOfs v s with
    | none => simp [hstore] at h
    | some u =>
      simp only [hstore] at h
      cases h
      unfold storeMessageByte at hstore
      obtain ⟨a, _, rfl⟩ := Option.map_eq_some_iff.mp hstore
      constructor <;> rfl

/-- A register write that is refused raises CONFIG_ERROR and nothing else. -/
theorem hostSide_ite_configError {p : Prop} [Decidable p] {s u : State} (hu : HostSide s u) :
    HostSide s (if p then u else raiseConfigError s) := by
  split
  · exact hu
  · exact .same (by constructor <;> rfl)

theorem hostSide_writeRegister {r : Register} {v : Byte} {s t : State} (h : writeRegister r v s = .next t) :
    HostSide s t := by
  cases r
  case cmd => cases h; exact hostSide_writeCmd v s
  case windata => exact .same (sameLine_writeWindata h)
  case winsel => cases h; unfold writeWinsel; split <;> exact .same (by constructor <;> rfl)
  case winofs => cases h; unfold writeWinofs; split <;> exact .same (by constructor <;> rfl)
  case cntsel => cases h; unfold writeCntsel; split <;> exact .same (by constructor <;> rfl)
  case hiwat | lowat => cases h; exact hostSide_ite_configError (.marks (by constructor <;> rfl))
  case divh | rxtrig | stale | retry | reserve | holdoff | faultlim =>
    cases h; exact hostSide_ite_configError (.same (by constructor <;> rfl))
  all_goals cases h; exact .same (by constructor <;> rfl)

/-- A row of the line that is taken, or is not and leaves the state as it is. -/
theorem lineEvent_cases {holds : Bool} {f : State → State} {s t : State} (h : lineEvent holds f s = .next t) :
    t = s ∨ (s.resetLow = false ∧ holds = true ∧ t = f s) := by
  unfold lineEvent at h
  split at h <;> cases h
  · next hc =>
    simp only [Bool.and_eq_true, Bool.not_eq_true'] at hc
    exact .inr ⟨hc.1, hc.2, rfl⟩
  · exact .inl rfl

/-- Everything that a row which does not move the line can do. -/
theorem exec_hostSide {i : Instr} {s t : State} (hi : movesLine i = false) (h : exec i s = .next t) :
    HostSide s t := by
  cases i with
  | allocate => exact hostSide_command .allocate _ h
  | submit => exact hostSide_command .submit _ h
  | abort => exact hostSide_command .abort _ h
  | collect => exact hostSide_command .collect _ h
  | release => exact hostSide_command .release _ h
  | flush => exact hostSide_command .flush _ h
  | pause => exact hostSide_command .pause _ h
  | resume => exact hostSide_command .resume _ h
  | forget => exact hostSide_command .forget _ h
  | queryPeer => exact hostSide_command .queryPeer _ h
  | join => exact hostSide_command .join _ h
  | leave => exact hostSide_command .leave _ h
  | goOnline => exact hostSide_command .goOnline _ h
  | goListen => exact hostSide_command .goListen _ h
  | goLoop => exact hostSide_command .goLoop _ h
  | goOffline => exact hostSide_command .goOffline _ h
  | setAddress => exact hostSide_command .setAddress _ h
  | clear => exact hostSide_command .clear _ h
  | clearCounters => exact hostSide_command .clearCounters _ h
  | unknownCommand code => exact hostSide_hostAccess (hostSide_writeCmd code s) h
  | stnRead | rxstatRead | flowRead | hstatRead | cntlRead =>
    exact hostSide_hostRead (by constructor <;> rfl) h
  | windataRead =>
    simp only [exec, execWindataRead] at h
    split at h
    · cases h; exact .same (by constructor <;> rfl)
    · exact .same (sameLine_readWindata h)
  | windataWrite v =>
    simp only [exec, execWindataWrite] at h
    split at h
    · cases h; exact .refl s
    · exact .same (sameLine_writeWindata h)
  | winselWrite v => exact hostSide_hostAccess (hostSide_writeRegister (r := .winsel) rfl) h
  | winofsWrite v => exact hostSide_hostAccess (hostSide_writeRegister (r := .winofs) rfl) h
  | cntselWrite v => exact hostSide_hostAccess (hostSide_writeRegister (r := .cntsel) rfl) h
  | intenWrite v => exact hostSide_hostAccess (hostSide_writeRegister (r := .inten) rfl) h
  | divlWrite v => exact hostSide_hostAccess (hostSide_writeRegister (r := .divl) rfl) h
  | divhWrite v => exact hostSide_hostAccess (hostSide_writeRegister (r := .divh) rfl) h
  | hiwatWrite v => exact hostSide_hostAccess (hostSide_writeRegister (r := .hiwat) rfl) h
  | lowatWrite v => exact hostSide_hostAccess (hostSide_writeRegister (r := .lowat) rfl) h
  | rxtrigWrite v => exact hostSide_hostAccess (hostSide_writeRegister (r := .rxtrig) rfl) h
  | staleWrite v => exact hostSide_hostAccess (hostSide_writeRegister (r := .stale) rfl) h
  | registerWrite o v =>
    simp only [exec, execRegisterWrite] at h
    split at h
    · cases h; exact .refl s
    · split at h
      · cases h; exact .refl s
      · exact hostSide_writeRegister h
  | staleTimerExpiry =>
    simp only [exec, execStaleTimerExpiry] at h
    obtain rfl | ⟨_, _, rfl⟩ := lineEvent_cases h
    · exact .refl _
    · exact .same (by constructor <;> rfl)
  | _ => simp [movesLine] at hi

end Sys2Proof.Machine
end

section
/-! SUPPORT. What a character does to the line side of the part, said once: FR moves on, and the reception may end. -/

namespace Sys2Proof.Machine

open Sys2Proof

/-- Of the line side only FR has moved, and it runs. -/
def ReceiverMoved (s t : State) : Prop := SameLine { s with fr := t.fr } t ∧ t.fr.mode ≠ .off

/-- FR has moved on, and the reception has ended or not. -/
inductive Heard (s : State) : State → Prop where
  | on {t : State} : ReceiverMoved s t → Heard s t
  | ended (how : Ending) {u : State} : ReceiverMoved s u → Heard s (endReception how u)

/-- A change of FR's record, and of its mode to a running one, moves only FR. -/
theorem receiverMoved_of {s t : State} (hfr : t.fr.mode ≠ .off) (hlac : t.lac = s.lac) (hts : t.ts = s.ts)
    (hrq : t.rq = s.rq) (hpt : t.pt = s.pt) (hsc : t.sc = s.sc) : ReceiverMoved s t := by
  refine ⟨?_, hfr⟩
  constructor <;> simp only [hlac, hts, hrq, hpt, hsc]

variable {s : State} {b : Byte} {r : Rx}

theorem heard_takeLead (h : s.fr.mode ≠ .off) : Heard s (takeLead b r s) := by
  unfold takeLead
  dsimp only
  split
  · exact .ended _ (receiverMoved_of h rfl rfl rfl rfl rfl)
  · exact .on (receiverMoved_of h rfl rfl rfl rfl rfl)

theorem heard_takeControl (h : s.fr.mode ≠ .off) : Heard s (takeControl b r s) := by
  unfold takeControl
  split
  · exact .ended _ (receiverMoved_of h rfl rfl rfl rfl rfl)
  · exact .on (receiverMoved_of h rfl rfl rfl rfl rfl)

theorem heard_takeDest (h : s.fr.mode ≠ .off) : Heard s (takeDest b r s) := by
  unfold takeDest
  split
  · exact .on (receiverMoved_of h rfl rfl rfl rfl rfl)
  · exact .ended _ (receiverMoved_of h rfl rfl rfl rfl rfl)

theorem enterBody_mode (n : Nat) (s : State) : (enterBody n s).fr.mode ≠ .off := by
  unfold enterBody
  split <;> simp

theorem heard_takeFourth (h : s.fr.mode ≠ .off) : Heard s (takeFourth b r s) := by
  unfold takeFourth
  split
  · exact .on (receiverMoved_of (by simp) rfl rfl rfl rfl rfl)
  · exact .on (receiverMoved_of (by simp) rfl rfl rfl rfl rfl)
  · split
    · exact .ended _ (receiverMoved_of h rfl rfl rfl rfl rfl)
    · exact .on (receiverMoved_of (enterBody_mode _ _) rfl rfl rfl rfl rfl)
  all_goals
    split
    · exact .ended _ (receiverMoved_of h rfl rfl rfl rfl rfl)
    · dsimp only
      split
      all_goals exact .on (receiverMoved_of (enterBody_mode _ _) (by simp) (by simp) (by simp) (by simp) (by simp))

theorem heard_takeHeader (h : s.fr.mode ≠ .off) : Heard s (takeHeader b r s) := by
  unfold takeHeader
  split
  · exact heard_takeLead h
  · exact heard_takeControl h
  · exact heard_takeDest h
  · exact heard_takeFourth h

theorem heard_takeBody {t : State} (h : s.fr.mode ≠ .off) (ht : takeBody b r s = some t) : Heard s t := by
  have moved : ∀ (x : Rx) (u : State), u.lac = s.lac → u.ts = s.ts → u.rq = s.rq → u.pt = s.pt → u.sc = s.sc →
      u.fr.mode ≠ .off → Heard s (bodyDone x u) := by
    intro x u h1 h2 h3 h4 h5 h6
    unfold bodyDone
    split
    · exact .on (receiverMoved_of (by simp) h1 h2 h3 h4 h5)
    · exact .on (receiverMoved_of h6 h1 h2 h3 h4 h5)
  unfold takeBody at ht
  split at ht
  · cases ht
    exact moved _ _ rfl rfl rfl rfl rfl h
  · split at ht
    · obtain ⟨u, hu, rfl⟩ := Option.map_eq_some_iff.mp ht
      obtain ⟨a, _, rfl⟩ := Option.map_eq_some_iff.mp hu
      exact moved _ _ rfl rfl rfl rfl rfl h
    · cases ht
      exact moved _ _ rfl rfl rfl rfl rfl h

theorem heard_takeCheck (h : s.fr.mode ≠ .off) : Heard s (takeCheck b r s) := by
  obtain ⟨first, hfirst⟩ : ∃ first, takeCheck b r s =
      if r.count ≤ first then setRecord { r with checkHigh := b } s
      else endReception (if checkChars r.crc = [r.checkHigh, b] then .good else .badCheck) s := ⟨_, rfl⟩
  rw [hfirst]
  split
  · exact .on (receiverMoved_of h rfl rfl rfl rfl rfl)
  · exact .ended _ (receiverMoved_of h rfl rfl rfl rfl rfl)

theorem ReceiverMoved.trans {u t : State} (h : ReceiverMoved s u) (k : ReceiverMoved u t) : ReceiverMoved s t :=
  ⟨⟨k.1.mode.trans h.1.mode, k.1.offer.trans h.1.offer, k.1.order.trans h.1.order, k.1.window.trans h.1.window,
    k.1.burst.trans h.1.burst, k.1.slots.trans h.1.slots, rfl, k.1.notice.trans h.1.notice,
    k.1.peers.trans h.1.peers, k.1.station.trans h.1.station, k.1.address.trans h.1.address⟩, k.2⟩

theorem Heard.after {u t : State} (h : ReceiverMoved s u) (k : Heard u t) : Heard s t := by
  cases k with
  | on hk => exact .on (h.trans hk)
  | ended how hk => exact .ended how (h.trans hk)

/-- A character that completes ends the reception or leaves FR running, with nothing else of the line moved. -/
theorem heard_takeComplete {t : State} (h : s.fr.mode ≠ .off) (ht : takeComplete b r s = some t) : Heard s t := by
  have counted : ∀ x, ReceiverMoved s (setRecord x s) := fun x => receiverMoved_of h rfl rfl rfl rfl rfl
  unfold takeComplete at ht
  dsimp only at ht
  split at ht
  · cases ht; exact .after (counted _) (heard_takeHeader h)
  · exact .after (counted _) (heard_takeBody h ht)
  · cases ht; exact .after (counted _) (heard_takeCheck h)
  · cases ht; exact .on (receiverMoved_of h rfl rfl rfl rfl rfl)

theorem heard_takeCharacter {t : State} {stop : LineBit} (h : s.fr.mode ≠ .off)
    (ht : takeCharacter b stop r s = some t) : Heard s t := by
  have quiet : ReceiverMoved s { s with lac := { s.lac with
      quiet := quietAtStop (completedByte r.leadBits b) stop } } := ⟨by constructor <;> rfl, h⟩
  unfold takeCharacter at ht
  split at ht
  · cases ht; exact .ended _ quiet
  · exact .after quiet (heard_takeComplete h ht)

/-- Another station's dominant bit that FR passes over, with the count that its character leaves. -/
def dominantPassed (q : Nat) (s : State) : State :=
  { otherDominant s with lac := { (otherDominant s).lac with quiet := q } }

/-- Everything that CHARACTER_RECEIVED can do: nothing, or FR hears the character in a state where it is taken from the
internal path or where the marks of the quiet count are taken, or FR is in RECOVER and passes it over. -/
theorem exec_characterReceived_cases {v : Byte} {stop : LineBit} {t : State}
    (h : exec (.characterReceived v stop) s = .next t) :
    t = s ∨ (s.sc.station ≠ .offline ∧ ∃ u, (SameLine s u ∨ u = takeMarks s) ∧
      ((∃ c st x, takeCharacter c st x u = some t) ∨ ∃ q, t = dominantPassed q u)) := by
  simp only [exec, execCharacterReceived] at h
  split at h
  · cases h; exact .inl rfl
  split at h
  · cases h; exact .inl rfl
  next c st u harrives =>
    refine or_iff_not_imp_left.mpr fun hne => ?_
    have hsource : s.sc.station ≠ .offline ∧ (SameLine s u ∨ u = takeMarks s) := by
      unfold arrivingCharacter at harrives
      split at harrives
      · cases harrives
      · split at harrives <;> cases harrives
        exact ⟨by simp [*], .inl (by constructor <;> rfl)⟩
      · split at harrives
        · cases harrives
        · cases harrives
          refine ⟨by assumption, ?_⟩
          split
          · exact .inl (.refl s)
          · exact .inr rfl
    refine ⟨hsource.1, u, hsource.2, ?_⟩
    split at h
    · next x _ =>
      split at h
      · cases h
      · cases h; exact .inl ⟨_, _, _, by assumption⟩
    · split at h <;> cases h
      · exact .inr ⟨_, rfl⟩
      · exact absurd rfl hne

end Sys2Proof.Machine
end

section
/-! SUPPORT. What each row of LAC's own can do, said once: nothing, or its effect under the row's condition. -/

namespace Sys2Proof.Machine

open Sys2Proof

variable {s t : State}

theorem exec_leadStart_cases (h : exec .leadStart s = .next t) :
    t = s ∨ ∃ o chars, s.lac.offer = some o ∧ mayLead s = true ∧ offerFrame s o = .ok chars ∧
      t = commitOffer o chars (ownStartBit (clearReachedDemotions (reachQuiet (threshold s (offerClass s o)) s))) := by
  simp only [exec, execLeadStart] at h
  split at h
  · cases h; exact .inl rfl
  · next o ho =>
    split at h
    · next hc =>
      split at h
      · cases h
      · next chars hf =>
        cases h
        simp only [Bool.and_eq_true] at hc
        exact .inr ⟨o, chars, ho, hc.2, hf, rfl⟩
    · cases h; exact .inl rfl

theorem exec_contentionLost_cases {k : Fin 8} (h : exec (.contentionLost k) s = .next t) :
    t = s ∨ ∃ b, s.lac.burst = some b ∧ s.lac.mode = .contend ∧ s.sc.station = .online ∧ t = loseLead b k s := by
  simp only [exec, execContentionLost] at h
  split at h
  · cases h; exact .inl rfl
  · next b hb =>
    refine (lineEvent_cases h).imp_right fun ⟨_, hc, ht⟩ => ⟨b, hb, ?_⟩
    simp only [Bool.and_eq_true, beq_iff_eq] at hc
    exact ⟨hc.1.1.1, hc.1.1.2, ht⟩

/-- LAC goes on with a frame whose lead is won (R30). -/
def leadWon (b : Burst) (s : State) : State :=
  { s with lac := { s.lac with
      mode := .send
      quiet := quietAtStop (b.chars.headD 0xFF) .recessive
      burst := some { b with bits := max b.bits Config.characterBits } } }

theorem exec_leadWon_cases (h : exec .leadWon s = .next t) :
    t = s ∨ ∃ b, s.lac.burst = some b ∧ s.lac.mode = .contend ∧ t = leadWon b s := by
  simp only [exec, execLeadWon] at h
  split at h
  · cases h; exact .inl rfl
  · next b hb =>
    exact (lineEvent_cases h).imp_right fun ⟨_, hc, ht⟩ => ⟨b, hb, by simpa using hc, ht⟩

theorem exec_echoFault_cases {k : Nat} (h : exec (.echoFault k) s = .next t) :
    t = s ∨ ∃ b, s.lac.burst = some b ∧ s.sc.station = .online ∧ isEchoFault s.lac.mode b k = true ∧
      t = takeEchoFault b k s := by
  simp only [exec, execEchoFault] at h
  split at h
  · cases h; exact .inl rfl
  · next b hb =>
    refine (lineEvent_cases h).imp_right fun ⟨_, hc, ht⟩ => ⟨b, hb, ?_⟩
    simp only [Bool.and_eq_true, beq_iff_eq] at hc
    exact ⟨hc.1, hc.2, ht⟩

theorem exec_frameSent_cases (h : exec .frameSent s = .next t) :
    t = s ∨ ∃ b, s.lac.burst = some b ∧ s.lac.mode = .send ∧
      t = reevaluate (reportSent b.source (takeFrameEnd b s)) := by
  simp only [exec, execFrameSent] at h
  split at h
  · cases h; exact .inl rfl
  · next b hb =>
    exact (lineEvent_cases h).imp_right fun ⟨_, hc, ht⟩ => ⟨b, hb, by simpa using hc, ht⟩

theorem exec_responseStart_cases (h : exec .responseStart s = .next t) :
    t = s ∨ ∃ chars u, s.sc.station.sends = true ∧ s.lac.mode = .quiet ∧
      u = ownStartBit (takeMarks (reachQuiet Config.responseGap s)) ∧
      t = startBurst .respond .response chars { u with lac := { u.lac with order := none } } := by
  simp only [exec, execResponseStart] at h
  split at h
  · cases h; exact .inl rfl
  · split at h
    · next hc =>
      split at h <;> cases h
      simp only [Bool.and_eq_true, beq_iff_eq] at hc
      exact .inr ⟨_, _, hc.1.2, hc.2, rfl, rfl⟩
    · cases h; exact .inl rfl

theorem exec_responseSent_cases (h : exec .responseSent s = .next t) :
    t = s ∨ ∃ b, s.lac.burst = some b ∧ s.lac.mode = .respond ∧ t = reevaluate (takeFrameEnd b s) := by
  simp only [exec, execResponseSent] at h
  split at h
  · cases h; exact .inl rfl
  · next b hb =>
    exact (lineEvent_cases h).imp_right fun ⟨_, hc, ht⟩ => ⟨b, hb, by simpa using hc, ht⟩

theorem exec_noResponse_cases (h : exec .noResponse s = .next t) :
    t = s ∨ (s.lac.mode = .quiet ∧ t = closeAtDeadline (reachQuiet Config.responseDeadline s)) := by
  simp only [exec, execNoResponse] at h
  split at h
  · cases h; exact .inl rfl
  · exact (lineEvent_cases h).imp_right fun ⟨_, hc, ht⟩ => ⟨by simpa using hc, ht⟩

/-- Where the start bit of a frame of this station goes to FR, FR runs on. -/
theorem ownStartBit_mode (s : State) :
    (ownStartBit s).fr.mode = s.fr.mode ∨ (s.sc.station = .loop ∧ (ownStartBit s).fr.mode = .header) := by
  unfold ownStartBit
  split
  · next hc =>
    simp only [Bool.and_eq_true, decide_eq_true_eq] at hc
    exact .inr ⟨hc.1, rfl⟩
  · exact .inl rfl

@[simp] theorem ownStartBit_offer (s : State) : (ownStartBit s).lac.offer = s.lac.offer := by
  unfold ownStartBit
  split <;> rfl

/-- The offer is dropped when the station leaves ONLINE or LOOP (R90). -/
@[simp] theorem stopScheduler_offer (s : State) : (stopScheduler s).lac.offer = none := by
  have hcut (u : State) : (cutSlot u).lac = u.lac := by unfold cutSlot; split <;> simp
  have hclose (u : State) : (closeWindow u).lac = u.lac := by unfold closeWindow; split <;> simp
  have hreturn (u : State) : (returnNotice u).lac = u.lac := by rw [returnNotice_eq]
  rw [stopScheduler, hreturn, hclose, hcut, (withdrawOffer_spec s).2]

end Sys2Proof.Machine
end

section
/-! SUPPORT. The law of the station (R20, R94, R163): each shared operation of the line keeps it, and so does every
step. -/

namespace Sys2Proof.Machine

open Sys2Proof

/-! ### The law and its parts -/

/-- LAC drives nothing and holds no offer, response order or response window. -/
def LineIdle (s : State) : Prop :=
  s.lac.mode.drives = false ∧ s.lac.offer = none ∧ s.lac.order = none ∧ s.lac.window = none

theorem stationLaw_iff {s : State} :
    StationLaw s ↔ (s.lac.mode = .offline ↔ s.sc.station = .offline) ∧
      (s.fr.mode = .off ↔ s.sc.station = .offline) ∧ (s.sc.station.sends = false → LineIdle s) := Iff.rfl

theorem Station.runs_of_sends {st : Station} (h : st.sends = true) : st ≠ .offline := by
  rintro rfl; cases h

/-- Of a running station the law asks that LAC and FR run, and that the line idles unless the station sends. -/
theorem stationLaw_of_running {s : State} (hst : s.sc.station ≠ .offline) (hlac : s.lac.mode ≠ .offline)
    (hfr : s.fr.mode ≠ .off) (hidle : s.sc.station.sends = false → LineIdle s) : StationLaw s :=
  ⟨iff_of_false hlac hst, iff_of_false hfr hst, hidle⟩

/-- Of a station that sends the law asks only that LAC and FR run. -/
theorem stationLaw_of_sends {s : State} (hst : s.sc.station.sends = true) (hlac : s.lac.mode ≠ .offline)
    (hfr : s.fr.mode ≠ .off) : StationLaw s :=
  stationLaw_of_running (Station.runs_of_sends hst) hlac hfr fun h => by simp [hst] at h

namespace StationLaw

variable {s t : State}

theorem lac_runs (h : StationLaw s) (hst : s.sc.station ≠ .offline) : s.lac.mode ≠ .offline := mt h.1.1 hst

theorem receiver_runs (h : StationLaw s) (hst : s.sc.station ≠ .offline) : s.fr.mode ≠ .off := mt h.2.1.1 hst

theorem runs_of_receiver (h : StationLaw s) (hfr : s.fr.mode ≠ .off) : s.sc.station ≠ .offline := mt h.2.1.2 hfr

theorem idle (h : StationLaw s) (hst : s.sc.station.sends = false) : LineIdle s := h.2.2 hst

theorem sends_of_drives (h : StationLaw s) (hd : s.lac.mode.drives = true) : s.sc.station.sends = true := by
  by_contra hst
  simp [(h.idle (by simpa using hst)).1] at hd

/-- The law looks at LAC and FR, at the station state and at what LAC holds. -/
theorem of_same (h : StationLaw s) (hst : t.sc.station = s.sc.station) (hlac : t.lac.mode = s.lac.mode)
    (hfr : t.fr.mode = s.fr.mode)
    (hheld : s.sc.station.sends = false → LineIdle s →
      t.lac.offer = none ∧ t.lac.order = none ∧ t.lac.window = none) : StationLaw t := by
  obtain ⟨h1, h2, h3⟩ := h
  refine ⟨by rw [hlac, hst]; exact h1, by rw [hfr, hst]; exact h2, fun hs => ?_⟩
  rw [hst] at hs
  exact ⟨hlac ▸ (h3 hs).1, hheld hs (h3 hs)⟩

theorem of_sameLine (h : StationLaw s) (hs : SameLine s t) : StationLaw t :=
  h.of_same hs.station hs.mode hs.receiver fun _ hi => by
    rw [hs.offer, hs.order, hs.window]; exact hi.2

end StationLaw

/-! ### The scheduler -/

/-- Nothing is eligible where the station does not send (R71, R72). -/
theorem chooseOffer_of_not_sends {s : State} (h : s.sc.station.sends = false) : chooseOffer s = none := by
  have hslot : ∀ c, firstEligible s c = none := by
    intro c
    simp only [firstEligible, Option.map_eq_none_iff, List.find?_eq_none]
    intro n _
    unfold eligible
    split <;> simp [h]
  simp [chooseOffer, hslot, noticeEligible, h]

theorem reevaluate_offer (s : State) :
    (reevaluate s).lac.offer =
      if schedulerBusy s || s.lac.mode == .respond then s.lac.offer else chooseOffer s :=
  (reevaluate_spec s).2.1

theorem stationLaw_reevaluate {s : State} (h : StationLaw s) : StationLaw (reevaluate s) := by
  refine h.of_same (by simp) (by simp) (by simp) fun hst hi => ?_
  obtain ⟨_, hoffer, horder, hwindow⟩ := hi
  refine ⟨?_, by simpa using horder, by simpa using hwindow⟩
  rw [reevaluate_offer, chooseOffer_of_not_sends hst, hoffer, ite_self]

/-- Operations that leave LAC, FR and the station alone keep the law. -/
theorem StationLaw.of_blocks {s t : State} (h : StationLaw s) (hlac : t.lac = s.lac) (hfr : t.fr = s.fr)
    (hsc : t.sc = s.sc) : StationLaw t :=
  h.of_same (by rw [hsc]) (by rw [hlac]) (by rw [hfr]) fun _ hi => by rw [hlac]; exact hi.2

theorem stationLaw_takeNoResponse {s : State} (h : StationLaw s) (n : SlotId) : StationLaw (takeNoResponse n s) :=
  stationLaw_reevaluate (h.of_blocks (by simp) (by simp) (by simp))

theorem stationLaw_takeAck {s : State} (h : StationLaw s) (n : SlotId) : StationLaw (takeAck n s) := by
  unfold takeAck
  split
  · exact h
  · exact stationLaw_reevaluate (h.of_blocks (by simp) (by simp) (by simp))

theorem stationLaw_takeBusy {s : State} (h : StationLaw s) (n : SlotId) (v : Byte) :
    StationLaw (takeBusy n v s) := by
  unfold takeBusy
  split
  · exact h
  · refine stationLaw_reevaluate (h.of_blocks ?_ ?_ ?_) <;> (split <;> [skip; split]) <;> simp

theorem stationLaw_buildNotice {s : State} (h : StationLaw s) : StationLaw (buildNotice s) := by
  unfold buildNotice
  split
  · exact h
  · exact stationLaw_reevaluate (h.of_blocks rfl rfl rfl)

theorem stationLaw_testExit {s : State} (h : StationLaw s) : StationLaw (testExit s) := by
  unfold testExit leaveCongestion
  split
  · dsimp only
    split
    · exact h
    · exact stationLaw_buildNotice h
  · exact h

theorem stationLaw_testMarks {s : State} (h : StationLaw s) : StationLaw (testMarks s) := by
  unfold testMarks
  split
  · exact stationLaw_testExit h
  · exact h.of_blocks (by simp) (by simp) (by simp)

theorem stationLaw_releasePeer {s : State} (h : StationLaw s) (node : Nat) : StationLaw (releasePeer node s) :=
  stationLaw_reevaluate (h.of_blocks rfl rfl rfl)

/-! ### The end of a reception -/

theorem stationLaw_failCandidate {s : State} (h : StationLaw s) : StationLaw (failCandidate s) := by
  unfold failCandidate
  split
  · exact h
  · exact stationLaw_takeNoResponse h _

theorem stationLaw_judgeCandidate {s : State} (h : StationLaw s) (r : Rx) : StationLaw (judgeCandidate r s) := by
  unfold judgeCandidate
  split
  · exact h
  · split
    · exact h
    · split
      · split
        · exact stationLaw_takeAck h _
        · exact stationLaw_takeBusy h _ _
      · exact stationLaw_takeNoResponse h _

theorem stationLaw_reportCandidate {s : State} (h : StationLaw s) (how : Ending) (r : Rx) :
    StationLaw (reportCandidate how r s) := by
  unfold reportCandidate
  split
  · exact stationLaw_judgeCandidate h r
  · exact stationLaw_failCandidate h

/-- A READY frame releases its source from remote busy, or nothing happens (R154). -/
theorem takeReady_cases (r : Rx) (s : State) : takeReady r s = s ∨ takeReady r s = releasePeer r.src s := by
  obtain ⟨named, hnamed⟩ : ∃ named : Bool, takeReady r s = match findPeer s.pt r.src with
      | none => s
      | some p => if p.remoteBusy && named then releasePeer r.src s else s := ⟨_, rfl⟩
  rw [hnamed]
  split
  · exact .inl rfl
  · split
    · exact .inr rfl
    · exact .inl rfl

/-- A response is ordered only where the station sends (R108, R157). -/
theorem stationLaw_dealGood {s : State} (h : StationLaw s) (r : Rx) : StationLaw (dealGood r s) := by
  unfold dealGood
  split
  · exact h
  · exact h
  · rcases takeReady_cases r s with e | e <;> rw [e]
    · exact h
    · exact stationLaw_releasePeer h _
  · split
    · exact h
    · dsimp only
      split
      · next hs => exact h.of_same (by simp) (by simp) (by simp) fun hn => by simp_all
      · exact h.of_blocks (by simp) (by simp) (by simp)
  · split
    · exact h
    · exact h.of_blocks (by simp) (by simp) (by simp)

theorem stationLaw_leaveReceive {s : State} (h : StationLaw s) : StationLaw (leaveReceive s) := by
  unfold leaveReceive
  split
  · next hm =>
    have hst : s.sc.station ≠ .offline := mt h.1.2 (by simp [hm])
    exact stationLaw_of_running hst (by simp) (h.receiver_runs hst) fun hs => ⟨rfl, (h.idle hs).2⟩
  · exact h

/-- The stages of the end of a reception (R106): FR and LAC have moved on, the candidate is reported, the frame is
dealt with, and on LAC's return to QUIET TS re-evaluates. What each stage keeps, the end of the reception keeps. -/
theorem endReception_stages {P : State → Prop} {how : Ending} {s : State} (h : P s)
    (hover : P (leaveReceive (afterEnding how s))) (hreport : ∀ r u, P u → P (reportCandidate how r u))
    (hgood : ∀ r u, P u → P (dealGood r u)) (hdamaged : ∀ m r u, P u → P (dealDamaged how m r u))
    (hreeval : ∀ u, P u → P (reevaluate u)) : P (endReception how s) := by
  unfold endReception
  split
  · exact h
  · next r _ =>
    have hreported : P (if r.candidate then reportCandidate how r (leaveReceive (afterEnding how s))
        else leaveReceive (afterEnding how s)) := by
      split
      · exact hreport _ _ hover
      · exact hover
    dsimp only
    generalize (if r.candidate = true then _ else _ : State) = u at hreported ⊢
    have hdealt : P (if how = .good then dealGood r u else dealDamaged how s.fr.mode r u) := by
      split
      · exact hgood _ _ hreported
      · exact hdamaged _ _ _ hreported
    split
    · exact hreeval _ hdealt
    · exact hdealt

/-- The end of a reception at a running station. -/
theorem stationLaw_endReception {s : State} (h : StationLaw s) (how : Ending)
    (hst : s.sc.station ≠ .offline) : StationLaw (endReception how s) := by
  have hended : StationLaw (afterEnding how s) :=
    stationLaw_of_running hst (h.lac_runs hst) (by cases how <;> simp [afterEnding]) h.idle
  exact endReception_stages h (stationLaw_leaveReceive hended)
    (fun r _ hu => stationLaw_reportCandidate hu how r) (fun r _ hu => stationLaw_dealGood hu r)
    (fun _ _ _ hu => hu.of_blocks (by simp) (by simp) (by simp)) fun _ hu => stationLaw_reevaluate hu

theorem StationLaw.of_receiverMoved {s t : State} (h : StationLaw s) (hst : s.sc.station ≠ .offline)
    (ht : ReceiverMoved s t) : StationLaw t := by
  obtain ⟨hs, hfr⟩ := ht
  refine stationLaw_of_running (by rw [hs.station]; exact hst) (by rw [hs.mode]; exact h.lac_runs hst) hfr fun hn => ?_
  rw [hs.station] at hn
  exact ⟨by rw [hs.mode]; exact (h.idle hn).1, by rw [hs.offer, hs.order, hs.window]; exact (h.idle hn).2⟩

theorem StationLaw.of_heard {s t : State} (h : StationLaw s) (hst : s.sc.station ≠ .offline)
    (ht : Heard s t) : StationLaw t := by
  cases ht with
  | on hu => exact h.of_receiverMoved hst hu
  | ended how hu =>
    exact stationLaw_endReception (h.of_receiverMoved hst hu) how (by rw [hu.1.station]; exact hst)

/-! ### Marks of the quiet count -/

/-- A mark of FR leaves its mode or ends RECOVER in HUNT (R95, R96). -/
theorem Fr.atQuiet_mode (q : Nat) (fr : Fr) :
    (fr.atQuiet q).mode = fr.mode ∨ (fr.mode = .recover ∧ (fr.atQuiet q).mode = .hunt) := by
  unfold Fr.atQuiet
  split
  · split <;> exact .inl rfl
  · split
    · exact .inr ⟨‹_›, rfl⟩
    · exact .inl rfl
  · exact .inl rfl

theorem stationLaw_reachQuiet {s : State} (h : StationLaw s) (n : Nat) : StationLaw (reachQuiet n s) := by
  rcases Fr.atQuiet_mode (max s.lac.quiet n) s.fr with hm | ⟨hr, hm⟩
  · exact h.of_same rfl rfl hm fun _ hi => hi.2
  · have hst := h.runs_of_receiver (by simp [hr])
    exact stationLaw_of_running hst (h.lac_runs hst) (by simp [reachQuiet, hm]) h.idle

/-- The window that closes is held by nothing any more. -/
theorem StationLaw.windowless {s : State} (h : StationLaw s) :
    StationLaw { s with lac := { s.lac with window := none } } :=
  h.of_same rfl rfl rfl fun _ hi => ⟨hi.2.1, hi.2.2.1, rfl⟩

theorem stationLaw_closeAtDeadline {s : State} (h : StationLaw s) : StationLaw (closeAtDeadline s) := by
  unfold closeAtDeadline
  split
  · exact h
  · exact stationLaw_takeNoResponse h.windowless _

theorem stationLaw_clearReachedDemotions {s : State} (h : StationLaw s) : StationLaw (clearReachedDemotions s) :=
  h.of_same rfl rfl rfl fun _ hi => hi.2

theorem waitsForCharacter_receiver {s : State} (h : waitsForCharacter s = true) : s.fr.mode ≠ .off := by
  intro hm
  simp [waitsForCharacter, hm, FrMode.receiving] at h

/-- The stages of taking the marks that the quiet count has reached: what each keeps, taking the marks keeps. -/
theorem takeMarks_stages {P : State → Prop} {s : State} (h : P s) (hreach : ∀ n u, P u → P (reachQuiet n u))
    (hend : ∀ u, P u → waitsForCharacter u = true → P (endReception .truncated u))
    (hclose : ∀ u, P u → u.lac.mode = .quiet → P (closeAtDeadline u))
    (hclear : ∀ u, P u → P (clearReachedDemotions u)) : P (takeMarks s) := by
  have h1 := hreach 0 s h
  unfold takeMarks
  generalize reachQuiet 0 s = s1 at h1 ⊢
  have h2 : P (if waitsForCharacter s1 && decide (s1.lac.quiet ≥ Config.gapLimit)
      then endReception .truncated s1 else s1) := by
    split
    · next hw => exact hend s1 h1 (by simp only [Bool.and_eq_true] at hw; exact hw.1)
    · exact h1
  dsimp only
  generalize (if (waitsForCharacter s1 && _) = true then _ else _ : State) = s2 at h2 ⊢
  have h3 : P (if s2.lac.mode == .quiet && decide (s2.lac.quiet ≥ Config.responseDeadline)
      then closeAtDeadline s2 else s2) := by
    split
    · next hq => exact hclose s2 h2 (by simp only [Bool.and_eq_true, beq_iff_eq] at hq; exact hq.1)
    · exact h2
  generalize (if (s2.lac.mode == .quiet && _) = true then _ else _ : State) = s3 at h3 ⊢
  split
  · exact hclear s3 h3
  · exact h3

theorem stationLaw_takeMarks {s : State} (h : StationLaw s) : StationLaw (takeMarks s) :=
  takeMarks_stages h (fun n _ hu => stationLaw_reachQuiet hu n)
    (fun _ hu hw => stationLaw_endReception hu .truncated (hu.runs_of_receiver (waitsForCharacter_receiver hw)))
    (fun _ hu _ => stationLaw_closeAtDeadline hu) fun _ hu => stationLaw_clearReachedDemotions hu

theorem takeMarks_station (s : State) : (takeMarks s).sc = s.sc :=
  takeMarks_stages (P := fun u => u.sc = s.sc) rfl (fun _ _ hu => hu) (fun _ hu _ => by simpa using hu)
    (fun _ hu _ => by unfold closeAtDeadline; split <;> simpa using hu) fun _ hu => hu

/-! ### Rows of other stations -/

theorem stationLaw_otherDominant {s : State} (h : StationLaw s) : StationLaw (otherDominant s) :=
  h.of_same rfl rfl rfl fun _ hi => ⟨hi.2.1, rfl, hi.2.2.2⟩

theorem stationLaw_takeStray {s : State} (h : StationLaw s) (hst : s.sc.station ≠ .offline) :
    StationLaw (takeStray s) := by
  have h1 : StationLaw (countEvent .stray (enterRecover (otherDominant s))) :=
    stationLaw_of_running (by simpa using hst) (by simpa using h.lac_runs hst) (by simp [enterRecover])
      fun hs => ⟨by simpa using (h.idle (by simpa using hs)).1, by simpa using ⟨(h.idle (by simpa using hs)).2.1,
        (h.idle (by simpa using hs)).2.2.2⟩⟩
  unfold takeStray strayCandidate
  split
  · exact h1
  · exact stationLaw_failCandidate h1.windowless

theorem stationLaw_takeStartBit {s : State} (h : StationLaw s) : StationLaw (takeStartBit s) := by
  unfold takeStartBit
  split
  · next hm =>
    have hst := h.runs_of_receiver (by simp [hm])
    split
    · exact stationLaw_takeStray h hst
    · refine stationLaw_of_running hst (by simp [takeStart]) (by simp [takeStart, openRecord]) fun hs => ?_
      exact ⟨rfl, (h.idle hs).2.1, rfl, rfl⟩
  · exact stationLaw_otherDominant h
  · exact h.of_same rfl rfl rfl fun _ hi => hi.2
  · exact h.of_same rfl rfl rfl fun _ hi => hi.2
  · exact h.of_same rfl rfl rfl fun _ hi => hi.2
  · exact h

theorem stationLaw_characterReceived {s t : State} {v : Byte} {stop : LineBit} (h : StationLaw s)
    (ht : exec (.characterReceived v stop) s = .next t) : StationLaw t := by
  rcases exec_characterReceived_cases ht with rfl | ⟨hst, u, hu, hc⟩
  · exact h
  · have hu' : StationLaw u ∧ u.sc.station ≠ .offline := by
      rcases hu with hs | rfl
      · exact ⟨h.of_sameLine hs, by rw [hs.station]; exact hst⟩
      · exact ⟨stationLaw_takeMarks h, by rw [takeMarks_station]; exact hst⟩
    obtain ⟨hlaw, hrun⟩ := hu'
    rcases hc with ⟨c, st, x, hx⟩ | ⟨q, rfl⟩
    · exact hlaw.of_heard hrun (heard_takeCharacter (hlaw.receiver_runs hrun) hx)
    · exact (stationLaw_otherDominant hlaw).of_same rfl rfl rfl fun _ hi => hi.2

end Sys2Proof.Machine
end

section
/-! SUPPORT. The law of the station through LAC's own rows, the commands and the resets. -/

namespace Sys2Proof.Machine

open Sys2Proof

/-! ### LAC's own rows -/

theorem stationLaw_takeFrameEnd {s : State} (h : StationLaw s) (b : Burst) (hst : s.sc.station.sends = true) :
    StationLaw (takeFrameEnd b s) :=
  stationLaw_of_sends (by simpa using hst) (by simp [takeFrameEnd])
    (by simpa [takeFrameEnd] using h.receiver_runs (Station.runs_of_sends hst))

theorem stationLaw_leadStart {s t : State} (h : StationLaw s) (ht : exec .leadStart s = .next t) :
    StationLaw t := by
  rcases exec_leadStart_cases ht with rfl | ⟨o, chars, _, hl, _, rfl⟩
  · exact h
  · simp only [mayLead, Bool.and_eq_true] at hl
    have hst := hl.1.1.1
    have hreach := stationLaw_clearReachedDemotions (stationLaw_reachQuiet h (threshold s (offerClass s o)))
    generalize hu : clearReachedDemotions (reachQuiet (threshold s (offerClass s o)) s) = u at hreach ⊢
    have hus : u.sc = s.sc := by rw [← hu]; rfl
    have hrun : u.sc.station ≠ .offline := Station.runs_of_sends (by rw [hus]; exact hst)
    refine stationLaw_of_sends (by simpa [hus] using hst) ?_ ?_
    · have hm : (ownStartBit u).lac.mode ≠ .offline := by simpa using hreach.lac_runs hrun
      unfold commitOffer
      cases o with
      | notice => simp [startBurst]
      | slot n =>
        dsimp only
        split
        · exact hm
        · simp [startBurst]
    · rcases ownStartBit_mode u with hm | ⟨_, hm⟩
      · simpa [hm] using hreach.receiver_runs hrun
      · simp [hm]

theorem stationLaw_loseLead {s : State} (b : Burst) (k : Nat) (hst : s.sc.station = .online) :
    StationLaw (loseLead b k s) := by
  refine stationLaw_reevaluate (stationLaw_of_sends (by simp [hst, Station.sends]) ?_ ?_)
  · unfold returnOffer
    split <;> [simp; skip; split] <;> simp [revertNotice, enqueueBehind]
  · simp [takeOverLead]

theorem stationLaw_leaveLine {s : State} {target : Station} (h : StationLaw s) (hst : s.sc.station.sends = true) :
    StationLaw (leaveLine target s) := by
  have hrun := h.receiver_runs (Station.runs_of_sends hst)
  by_cases ht : target = .offline
  · simp [StationLaw, leaveLine, stopLac, stopReceiver, ht, LacMode.drives]
  · refine stationLaw_of_running (by simpa [leaveLine] using ht) ?_ ?_ fun _ => ?_
    · simp only [leaveLine, stopLac, ht, if_false]
      split <;> simp
    · simp only [leaveLine, stopLac_fr, stopReceiver, ht, if_false]
      split
      · simp
      · split
        · simp [enterRecover]
        · simpa using hrun
    · refine ⟨?_, ?_, rfl, rfl⟩
      · simp only [leaveLine, stopLac, ht, if_false]
        split <;> rfl
      · simp [leaveLine]

theorem stationLaw_takeEchoFault {s : State} (b : Burst) (k : Nat) (hst : s.sc.station = .online) :
    StationLaw (takeEchoFault b k s) := by
  have hcut : ∀ u : State, u.sc = s.sc → u.lac.mode = .quiet → u.fr.mode = .recover →
      StationLaw (applyFaultLimit u) := by
    intro u hsc hm hf
    have hs : u.sc.station.sends = true := by simp [hsc, hst, Station.sends]
    have hu : StationLaw u := stationLaw_of_sends hs (by simp [hm]) (by simp [hf])
    unfold applyFaultLimit
    split
    · exact (stationLaw_leaveLine hu hs).of_same (t := enterSilent u) rfl rfl rfl fun _ hi => hi.2
    · exact hu
  exact stationLaw_reevaluate (hcut _ (by simp) (by simp) (by simp [enterRecover]))

theorem stationLaw_frameSent {s t : State} (h : StationLaw s) (ht : exec .frameSent s = .next t) :
    StationLaw t := by
  rcases exec_frameSent_cases ht with rfl | ⟨b, _, hm, rfl⟩
  · exact h
  · have hst := h.sends_of_drives (by simp [hm, LacMode.drives])
    have hend := stationLaw_takeFrameEnd h b hst
    exact stationLaw_reevaluate (stationLaw_of_sends (by simpa using hst) (by simp [takeFrameEnd])
      (by simpa using hend.receiver_runs (Station.runs_of_sends (by simpa using hst))))

theorem stationLaw_responseStart {s t : State} (h : StationLaw s) (ht : exec .responseStart s = .next t) :
    StationLaw t := by
  rcases exec_responseStart_cases ht with rfl | ⟨chars, u, hst, _, hu, rfl⟩
  · exact h
  · have hmarks := stationLaw_takeMarks (stationLaw_reachQuiet h Config.responseGap)
    have hsc : (takeMarks (reachQuiet Config.responseGap s)).sc = s.sc := takeMarks_station _
    have hrun := hmarks.receiver_runs (Station.runs_of_sends (by rw [hsc]; exact hst))
    refine stationLaw_of_sends (by simpa [hu, hsc] using hst) (by simp [startBurst]) ?_
    rcases ownStartBit_mode (takeMarks (reachQuiet Config.responseGap s)) with hm | ⟨_, hm⟩ <;> rw [← hu] at hm
    · simpa [hm] using hrun
    · simp [hm]

/-! ### Commands -/

/-- The results of a command do not bear on the law. -/
theorem StationLaw.answered {s : State} (h : StationLaw s) (c : Cst) (r : Quad) : StationLaw (answer c r s) :=
  h.of_blocks rfl rfl rfl

theorem stationLaw_cutByAbort {s : State} (h : StationLaw s) : StationLaw (cutByAbort s) := by
  unfold cutByAbort
  dsimp only
  split
  · exact h
  · next hd =>
    have hst := h.sends_of_drives (by simpa using hd)
    have hstopped : StationLaw (stopBurst .quiet { s with lac := { s.lac with path := [] } }) :=
      stationLaw_of_sends hst (by simp) (h.receiver_runs (Station.runs_of_sends hst))
    split
    · have hended := stationLaw_endReception hstopped .truncated (Station.runs_of_sends hst)
      exact stationLaw_of_sends (by simpa using hst)
        (hended.lac_runs (Station.runs_of_sends (by simpa using hst))) (by simp)
    · exact stationLaw_of_sends (by simpa using hst) (by simp) (by simp [enterRecover])

theorem stationLaw_abortSlot {s : State} (h : StationLaw s) (n : SlotId) (sl : Slot) :
    StationLaw (abortSlot n sl s) := by
  unfold abortSlot
  split
  · exact (stationLaw_reevaluate (h.of_blocks (by simp) (by simp) (by simp))).answered _ _
  · refine (stationLaw_reevaluate (h.of_same ?_ ?_ ?_ fun _ hi => ?_)).answered _ _
    all_goals simp
    exact hi.2
  · refine (stationLaw_reevaluate (h.of_same ?_ ?_ ?_ fun _ hi => ?_)).answered _ _
    all_goals simp
    exact hi.2.2
  · refine (stationLaw_reevaluate ((stationLaw_cutByAbort h).of_blocks ?_ ?_ ?_)).answered _ _ <;> simp
  · exact h.of_blocks rfl rfl rfl
  · exact h.of_blocks rfl rfl rfl

theorem stationLaw_enterRunning {s : State} {target : Station} (h : StationLaw s) (hs : s.sc.station = .offline)
    (ht : target ≠ .offline) : StationLaw (enterRunning target s) :=
  stationLaw_of_running ht (by simp [enterRunning]) (by simp [enterRunning])
    fun _ => ⟨rfl, (h.idle (by simp [hs, Station.sends])).2⟩

/-- A running station moves to another running state that sends, or from one that does not send. -/
theorem stationLaw_setStation {s : State} {target : Station} (h : StationLaw s) (hs : s.sc.station ≠ .offline)
    (ht : target ≠ .offline) (hidle : s.sc.station.sends = false) : StationLaw (setStation target s) :=
  stationLaw_of_running ht (h.lac_runs hs) (h.receiver_runs hs) fun _ => h.idle hidle

theorem stationLaw_stopHearing {s : State} (h : StationLaw s) (hs : s.sc.station.sends = false) :
    StationLaw (stopHearing s) := by
  have hidle := (h.idle hs).2
  refine ⟨?_, ?_, fun _ => ?_⟩
  · simp [stopHearing]
  · simp [stopHearing]
  · exact ⟨rfl, by simpa using hidle⟩

theorem stationLaw_goOnlineBody {s : State} (h : StationLaw s) : StationLaw (goOnlineBody s) := by
  have h1 : StationLaw (clearFaults s) := h.of_same rfl rfl rfl fun _ hi => hi.2
  unfold goOnlineBody
  split
  · exact h.answered _ _
  · refine (stationLaw_reevaluate ?_).answered _ _
    unfold goOnlineChange
    split
    · next hs => exact stationLaw_enterRunning h1 hs (by simp)
    · next hs => exact stationLaw_setStation h1 (by rw [hs]; nofun) nofun (by rw [hs]; rfl)
    · next hs => exact stationLaw_setStation h1 (by rw [hs]; nofun) nofun (by rw [hs]; rfl)
    · exact h1
    · next hs => exact stationLaw_leaveLine h1 (by rw [hs]; rfl)

theorem stationLaw_goListenBody {s : State} (h : StationLaw s) : StationLaw (goListenBody s) := by
  unfold goListenBody
  refine StationLaw.answered ?_ _ _
  split
  · next hs => exact stationLaw_enterRunning h hs (by simp)
  · exact h
  · next hs => exact stationLaw_setStation h (by simp [hs]) (by simp) (by simp [hs, Station.sends])
  · next hs => exact stationLaw_leaveLine h (by simp [hs, Station.sends])
  · next hs => exact stationLaw_leaveLine h (by simp [hs, Station.sends])

theorem stationLaw_goLoopBody {s : State} (h : StationLaw s) : StationLaw (goLoopBody s) := by
  unfold goLoopBody
  split
  · next hs _ => exact (stationLaw_reevaluate (stationLaw_enterRunning h hs (by simp))).answered _ _
  · exact h.answered _ _

theorem stationLaw_goOfflineBody {s : State} (h : StationLaw s) : StationLaw (goOfflineBody s) := by
  unfold goOfflineBody
  refine StationLaw.answered (StationLaw.of_blocks (s := ?_) ?_ rfl rfl rfl) _ _
  split
  · exact h
  · next hs => exact stationLaw_stopHearing h (by simp [hs, Station.sends])
  · next hs => exact stationLaw_stopHearing h (by simp [hs, Station.sends])
  · next hs => exact stationLaw_leaveLine h (by simp [hs, Station.sends])
  · next hs => exact stationLaw_leaveLine h (by simp [hs, Station.sends])

theorem stationLaw_commandBody {s : State} (h : StationLaw s) (c : HostCommand) : StationLaw (commandBody c s) := by
  cases c with
  | allocate => exact h.of_blocks (by simp [commandBody]) (by simp [commandBody]) (by simp [commandBody])
  | submit =>
    simp only [commandBody, submitBody]
    split
    · exact h.answered _ _
    · split
      · exact h.answered _ _
      · split
        · exact h.answered _ _
        · exact (stationLaw_reevaluate (h.of_blocks (by simp) (by simp) (by simp))).answered _ _
  | abort =>
    simp only [commandBody, abortBody]
    split
    · exact h.answered _ _
    · split
      · exact h.answered _ _
      · exact stationLaw_abortSlot h _ _
  | collect => exact h.of_blocks (by simp [commandBody]) (by simp [commandBody]) (by simp [commandBody])
  | release =>
    simp only [commandBody, releaseBody]
    split
    · exact h.answered _ _
    · exact (stationLaw_testExit (h.of_blocks (by simp) (by simp) (by simp))).answered _ _
  | flush =>
    simp only [commandBody, flushBody]
    refine (stationLaw_testExit (h.of_blocks ?_ ?_ ?_)).answered _ _ <;> split <;> simp
  | pause => exact h.of_blocks rfl rfl rfl
  | resume =>
    simp only [commandBody, resumeBody]
    refine StationLaw.answered ?_ _ _
    split
    · exact stationLaw_buildNotice (h.of_blocks rfl rfl rfl)
    · exact h.of_blocks rfl rfl rfl
  | forget =>
    simp only [commandBody, forgetBody]
    split
    · exact h.answered _ _
    · split
      · exact h.answered _ _
      · split
        · exact h.answered _ _
        · refine StationLaw.answered ?_ _ _
          split
          · exact stationLaw_reevaluate (h.of_blocks rfl rfl rfl)
          · exact h.of_blocks rfl rfl rfl
  | queryPeer => exact h.of_blocks (by simp [commandBody]) (by simp [commandBody]) (by simp [commandBody])
  | join | leave =>
    exact h.of_same (by simp [commandBody]) (by simp [commandBody]) (by simp [commandBody])
      fun _ hi => by simpa [commandBody] using hi.2
  | goOnline => exact stationLaw_goOnlineBody h
  | goListen => exact stationLaw_goListenBody h
  | goLoop => exact stationLaw_goLoopBody h
  | goOffline => exact stationLaw_goOfflineBody h
  | setAddress =>
    exact h.of_same (by simp [commandBody]) (by simp [commandBody]) (by simp [commandBody])
      fun _ hi => by simpa [commandBody] using hi.2
  | clear => simp [StationLaw, commandBody, clearBody, answerBare, clearBlocks, Lac.reset, LacMode.drives]
  | clearCounters => exact h.of_blocks rfl rfl rfl

/-! ### Every step -/

theorem stationLaw_of_reset {s : State} (hlac : s.lac = .reset) (hfr : s.fr = .reset) (hsc : s.sc = .reset) :
    StationLaw s := by
  simp [StationLaw, hlac, hfr, hsc, Lac.reset, Fr.reset, Sc.reset, LacMode.drives]

theorem stationLaw_hostSide {s t : State} (h : StationLaw s) (ht : HostSide s t) : StationLaw t := by
  cases ht with
  | same hs => exact h.of_sameLine hs
  | command c hs => exact stationLaw_commandBody (h.of_sameLine hs) c
  | marks hs => exact stationLaw_testMarks (h.of_sameLine hs)

theorem stationLaw_lineEvent {holds : Bool} {f : State → State} {s t : State} (h : StationLaw s)
    (ht : lineEvent holds f s = .next t) (hf : holds = true → StationLaw (f s)) : StationLaw t := by
  rcases lineEvent_cases ht with rfl | ⟨_, hc, rfl⟩
  · exact h
  · exact hf hc

theorem stationLaw_exec {i : Instr} {s t : State} (h : StationLaw s) (ht : exec i s = .next t) : StationLaw t := by
  by_cases hi : movesLine i = true
  case neg => exact stationLaw_hostSide h (exec_hostSide (by simpa using hi) ht)
  cases i with
  | resetAsserted | resetReleased | powerUp => cases ht; exact stationLaw_of_reset rfl rfl rfl
  | startBit =>
    rw [exec, execStartBit] at ht
    exact stationLaw_lineEvent h ht fun _ => stationLaw_takeStartBit (stationLaw_takeMarks h)
  | characterReceived v stop => exact stationLaw_characterReceived h ht
  | gapGuardClear => exact stationLaw_lineEvent h ht fun _ => stationLaw_reachQuiet h _
  | gapLimitTruncation =>
    rw [exec, execGapLimitTruncation] at ht
    refine stationLaw_lineEvent h ht fun hw => ?_
    exact stationLaw_endReception (stationLaw_reachQuiet h _) .truncated
      (h.runs_of_receiver (waitsForCharacter_receiver hw))
  | gapLimitRecover => exact stationLaw_lineEvent h ht fun _ => stationLaw_reachQuiet h _
  | demotionClear c =>
    rw [exec, execDemotionClear] at ht
    refine stationLaw_lineEvent h ht fun _ => ?_
    exact (stationLaw_reachQuiet h (Config.demotedThreshold c)).of_same rfl rfl rfl fun _ hi => hi.2
  | leadStart => exact stationLaw_leadStart h ht
  | contentionLost k =>
    rcases exec_contentionLost_cases ht with rfl | ⟨b, _, _, hst, rfl⟩
    · exact h
    · exact stationLaw_loseLead b k hst
  | leadWon =>
    rcases exec_leadWon_cases ht with rfl | ⟨b, _, hm, rfl⟩
    · exact h
    · have hst := h.sends_of_drives (by simp [hm, LacMode.drives])
      exact stationLaw_of_sends hst (by simp [leadWon]) (h.receiver_runs (Station.runs_of_sends hst))
  | echoFault k =>
    rcases exec_echoFault_cases ht with rfl | ⟨b, _, hst, _, rfl⟩
    · exact h
    · exact stationLaw_takeEchoFault b k hst
  | frameSent => exact stationLaw_frameSent h ht
  | responseStart => exact stationLaw_responseStart h ht
  | responseSent =>
    rcases exec_responseSent_cases ht with rfl | ⟨b, _, hm, rfl⟩
    · exact h
    · exact stationLaw_reevaluate (stationLaw_takeFrameEnd h b (h.sends_of_drives (by simp [hm, LacMode.drives])))
  | noResponse =>
    rcases exec_noResponse_cases ht with rfl | ⟨_, rfl⟩
    · exact h
    · exact stationLaw_closeAtDeadline (stationLaw_reachQuiet h _)
  | holdoffExpiry node => exact stationLaw_lineEvent h ht fun _ => stationLaw_releasePeer h node
  | dominantBitInRecover =>
    rw [exec, execDominantBitInRecover] at ht
    exact stationLaw_lineEvent h ht fun _ => stationLaw_otherDominant (stationLaw_takeMarks h)
  | _ => simp [movesLine] at hi

theorem stationLaw_idle {s : State} (h : StationLaw s) : StationLaw (idle s) := by
  unfold idle
  split
  · unfold bitTime
    split
    · exact h
    · unfold tickLine
      split
      · exact h.of_same rfl rfl rfl fun _ hi => hi.2
      · split
        · exact h.of_same rfl rfl rfl fun _ hi => hi.2
        · exact h.of_same rfl rfl rfl fun _ hi => hi.2
  · exact h.of_blocks rfl rfl rfl

/-- LAC and FR stand still exactly in OFFLINE, and only ONLINE and LOOP drive or hold anything, after every step. -/
theorem stationLaw_step {s t : State} (h : StationLaw s) (ht : step s = .next t) : StationLaw t := by
  unfold step at ht
  split at ht
  · cases ht; exact stationLaw_idle h
  · next c rest _ => exact stationLaw_exec (h.of_blocks (t := { s with pending := rest }) rfl rfl rfl) ht

end Sys2Proof.Machine
end

section
/-! SUPPORT. Which peer entries are active (R145), through each operation over the peer table. -/

namespace Sys2Proof.Machine

open Sys2Proof

/-! ### Entries found -/

theorem findPeer_map {f : Peer → Peer} (hf : ∀ p, (f p).node = p.node) (x : Nat) (ps : List Peer) :
    findPeer (ps.map f) x = (findPeer ps x).map f := by
  have hcomp : ((fun p : Peer => p.node == x) ∘ f) = fun p => p.node == x := by
    funext p; simp [hf]
  rw [findPeer, findPeer, List.find?_map, hcomp]

theorem modifyPeer_entry_node {node : Nat} {f : Peer → Peer} (hf : ∀ p, (f p).node = p.node) (p : Peer) :
    (if p.node = node then f p else p).node = p.node := by
  split
  · exact hf p
  · rfl

theorem findPeer_modifyPeer {node : Nat} {f : Peer → Peer} (hf : ∀ p, (f p).node = p.node) (x : Nat)
    (ps : List Peer) :
    findPeer (modifyPeer node f ps) x = (findPeer ps x).map fun p => if p.node = node then f p else p :=
  findPeer_map (modifyPeer_entry_node hf) x ps

theorem findPeer_removePeer_ne {node x : Nat} (h : x ≠ node) (ps : List Peer) :
    findPeer (removePeer node ps) x = findPeer ps x := by
  rw [findPeer, removePeer, List.find?_filter, findPeer]
  congr 1
  funext p
  by_cases hp : p.node = x <;> simp [hp, h]

theorem findPeer_touchPeer (node x : Nat) (ps : List Peer) : findPeer (touchPeer node ps) x = findPeer ps x := by
  unfold touchPeer
  cases hf : findPeer ps node with
  | none => rfl
  | some p =>
    have hp := (findPeer_eq_some hf).2
    dsimp only
    rw [findPeer, List.find?_cons]
    by_cases hx : x = node
    · subst hx; simp [hp, hf]
    · have : (p.node == x) = false := by simpa [hp] using fun e : node = x => hx e.symm
      rw [this]
      exact findPeer_removePeer_ne hx ps

theorem mem_touchPeer {node : Nat} {ps : List Peer} {p : Peer} (h : p ∈ touchPeer node ps) : p ∈ ps := by
  unfold touchPeer at h
  split at h
  · exact h
  · next q hq =>
    rcases List.mem_cons.mp h with rfl | h
    · exact (findPeer_eq_some hq).1
    · exact (List.mem_filter.mp h).1

/-- An eviction leaves an active entry the one that is found (R139). -/
theorem findPeer_evictOne {keep : Option Nat} {x : Nat} {p : Peer} {ps room : List Peer}
    (h : evictOne keep ps = some room) (hf : findPeer ps x = some p) (hp : p.active = true) :
    findPeer room x = some p := by
  induction ps generalizing room with
  | nil => simp [evictOne] at h
  | cons q rest ih =>
    unfold evictOne at h
    rw [findPeer, List.find?_cons] at hf
    cases he : evictOne keep rest with
    | some rest' =>
      simp only [he, Option.some.injEq] at h
      subst h
      rw [findPeer, List.find?_cons]
      split at hf
      · exact hf
      · exact ih he hf
    | none =>
      simp only [he] at h
      split at h <;> cases h
      next hev =>
        split at hf
        · cases hf
          simp [Peer.evictable, hp] at hev
        · exact hf

theorem findPeer_makeRoom {keep : Option Nat} {x : Nat} {p : Peer} {ps room : List Peer}
    (h : makeRoom keep ps = some room) (hf : findPeer ps x = some p) (hp : p.active = true) :
    findPeer room x = some p := by
  unfold makeRoom at h
  split at h
  · cases h; exact hf
  · exact findPeer_evictOne h hf hp

/-- A destination that is admitted has an entry, or one can be created for it (R139, R142). -/
theorem ensurePeer_of_peerAdmits {keep : Option Nat} {node : Nat} {ps : List Peer}
    (h : peerAdmits keep ps node = true) :
    ∃ qs, ensurePeer keep node ps = some qs ∧ (findPeer qs node).isSome = true := by
  unfold peerAdmits at h
  unfold ensurePeer
  cases hf : findPeer ps node with
  | some p => exact ⟨ps, by simp, by simp [hf]⟩
  | none =>
    simp only [hf, Option.isSome_iff_exists] at h
    obtain ⟨room, hr⟩ := h
    exact ⟨newPeer node :: room, by simp [hr], by simp [findPeer, newPeer]⟩

/-! ### Active entries -/

/-- The entries that are active are those of the node `d`, if there is one, and the one found for it is active. -/
def ActiveOnly (d : Option Nat) (ps : List Peer) : Prop :=
  (∀ x, d = some x → ∃ p, findPeer ps x = some p ∧ p.active = true) ∧
    ∀ p ∈ ps, p.active = true → d = some p.node

theorem activeOnly_none {ps : List Peer} : ActiveOnly none ps ↔ ∀ p ∈ ps, p.active = false := by
  simp [ActiveOnly]

section

variable {d : Option Nat} {ps : List Peer}

theorem ActiveOnly.map {f : Peer → Peer} (h : ActiveOnly d ps) (hnode : ∀ p, (f p).node = p.node)
    (hactive : ∀ p, (f p).active = p.active) : ActiveOnly d (ps.map f) := by
  refine ⟨fun x hx => ?_, fun q hq ha => ?_⟩
  · obtain ⟨p, hp, ha⟩ := h.1 x hx
    exact ⟨f p, by rw [findPeer_map hnode, hp]; rfl, by rw [hactive]; exact ha⟩
  · obtain ⟨p, hp, rfl⟩ := List.mem_map.mp hq
    rw [hnode]
    exact h.2 p hp (by rw [← hactive]; exact ha)

theorem activeOnly_modifyPeer {f : Peer → Peer} (h : ActiveOnly d ps) (node : Nat)
    (hnode : ∀ p, (f p).node = p.node) (hactive : ∀ p, (f p).active = p.active) :
    ActiveOnly d (modifyPeer node f ps) :=
  h.map (modifyPeer_entry_node hnode) fun p => by split <;> [exact hactive p; rfl]

theorem activeOnly_touchPeer (h : ActiveOnly d ps) (node : Nat) : ActiveOnly d (touchPeer node ps) :=
  ⟨fun x hx => by rw [findPeer_touchPeer]; exact h.1 x hx, fun p hp => h.2 p (mem_touchPeer hp)⟩

/-- A new entry is not active, and the room for it is made without an active entry (R139, R142). -/
theorem activeOnly_newPeer {keep : Option Nat} {node : Nat} {room : List Peer} (h : ActiveOnly d ps)
    (hf : findPeer ps node = none) (hr : makeRoom keep ps = some room) :
    ActiveOnly d (newPeer node :: room) := by
  refine ⟨fun x hx => ?_, fun p hp ha => ?_⟩
  · obtain ⟨p, hp, ha⟩ := h.1 x hx
    have hne : node ≠ x := by rintro rfl; simp [hf] at hp
    refine ⟨p, ?_, ha⟩
    rw [findPeer, List.find?_cons]
    have hother : ((newPeer node).node == x) = false := by simpa [newPeer] using hne
    rw [hother]
    exact findPeer_makeRoom hr hp ha
  · rcases List.mem_cons.mp hp with rfl | hp
    · simp [newPeer] at ha
    · exact h.2 p ((makeRoom_sublist hr).1.subset hp) ha

theorem activeOnly_ensurePeer {keep : Option Nat} {node : Nat} (h : ActiveOnly d ps) :
    ActiveOnly d ((ensurePeer keep node ps).getD ps) := by
  unfold ensurePeer
  cases hf : findPeer ps node with
  | some p => exact h
  | none =>
    cases hr : makeRoom keep ps with
    | none => exact h
    | some room => exact activeOnly_newPeer h hf hr

theorem activeOnly_removePeer {node : Nat} (h : ActiveOnly d ps) (hd : d ≠ some node) :
    ActiveOnly d (removePeer node ps) := by
  refine ⟨fun x hx => ?_, fun p hp => h.2 p (List.mem_filter.mp hp).1⟩
  have hne : x ≠ node := by rintro rfl; exact hd hx
  rw [findPeer_removePeer_ne hne]
  exact h.1 x hx

/-- The one active entry is cleared (R145). -/
theorem ActiveOnly.clear {x : Nat} (h : ActiveOnly (some x) ps) :
    ActiveOnly none (modifyPeer x (fun p => { p with active := false }) ps) := by
  refine activeOnly_none.mpr fun q hq => ?_
  obtain ⟨p, hp, rfl⟩ := List.mem_map.mp hq
  split
  · rfl
  · next hne =>
    by_contra ha
    have := h.2 p hp (by simpa using ha)
    exact hne (Option.some.inj this).symm

/-- The entry found for a node becomes the one active entry (R75, R145). -/
theorem ActiveOnly.set {x : Nat} (h : ActiveOnly none ps) (hf : (findPeer ps x).isSome = true) :
    ActiveOnly (some x) (modifyPeer x (fun p => { p with active := true }) (touchPeer x ps)) := by
  refine ⟨fun y hy => ?_, fun q hq ha => ?_⟩
  · cases hy
    obtain ⟨p, hp⟩ := Option.isSome_iff_exists.mp hf
    refine ⟨{ p with active := true }, ?_, rfl⟩
    have hnode := (findPeer_eq_some hp).2
    have hset (p : Peer) : ({ p with active := true } : Peer).node = p.node := rfl
    rw [findPeer_modifyPeer hset, findPeer_touchPeer, hp]
    simp [hnode]
  · obtain ⟨p, hp, rfl⟩ := List.mem_map.mp hq
    split at ha
    · next hnode => simp [hnode]
    · exact absurd ha (by simp [activeOnly_none.mp h p (mem_touchPeer hp)])

end

end Sys2Proof.Machine
end

section
/-! SUPPORT. The law of the offer (R73, R145) said by what TS is doing: nothing, a notice offered, a slot offered, or
a slot's attempt under way. -/

namespace Sys2Proof.Machine

open Sys2Proof

/-! ### What TS is doing -/

/-- The node whose entry the slot makes active (R145). -/
def Slot.peerNode (sl : Slot) : Option Nat :=
  match sl.kind with
  | .datagram => none
  | .data => some sl.dest

/-- No slot stands in OFFERED, SENDING or AWAITING, and no peer entry is active. -/
structure Resting (s : State) : Prop where
  slots : ∀ n sl, slotAt s n = some sl → sl.holdsPeer = false
  peers : ActiveOnly none s.pt

/-- The slot, and it alone, stands in OFFERED, SENDING or AWAITING, beside no committed notice, and its peer entry is
the active one (R73, R145). -/
structure Holds (n : SlotId) (sl : Slot) (s : State) : Prop where
  slot : slotAt s n = some sl
  holds : sl.holdsPeer = true
  only : ∀ m sm, slotAt s m = some sm → sm.holdsPeer = true → m = n
  notice : noticeCommitted s = false
  peers : ActiveOnly sl.peerNode s.pt

/-- The part of the law of the offer that TS, PT and the notice keep among themselves. -/
inductive TsLaw (s : State) : Prop where
  | resting : Resting s → s.lac.offer = none → TsLaw s
  | notice : Resting s → s.lac.offer = some .notice → s.rq.notice ≠ none → noticeCommitted s = false → TsLaw s
  | offered (n : SlotId) (sl : Slot) : Holds n sl s → sl.phase = .offered → s.lac.offer = some (.slot n) → TsLaw s
  | underway (n : SlotId) (sl : Slot) : Holds n sl s → sl.phase ≠ .offered → s.lac.offer = none → TsLaw s

/-- ONLINE and LOOP have an address (R164). -/
def AddressLaw (s : State) : Prop := s.sc.station.sends = true → s.sc.address ≠ none

/-- A READY frame is driven for a committed notice (R131). -/
def DriveLaw (s : State) : Prop :=
  ∀ b, s.lac.burst = some b → b.source = .notice → s.lac.mode.drives = true → noticeCommitted s = true

theorem slotIn_iff {s : State} {p : SlotPhase} {n : SlotId} :
    slotIn s p n = true ↔ ∃ sl, slotAt s n = some sl ∧ sl.phase = p := by
  unfold slotIn
  cases slotAt s n <;> simp

theorem holdsPeer_iff {sl : Slot} :
    sl.holdsPeer = true ↔ sl.phase = .offered ∨ sl.phase = .sending ∨ sl.phase = .awaiting := by
  simp [Slot.holdsPeer, or_assoc]

/-- TS is busy with a committed notice or with a slot whose attempt is under way (R73). -/
theorem schedulerBusy_iff {s : State} :
    schedulerBusy s = true ↔ noticeCommitted s = true ∨
      ∃ n sl, slotAt s n = some sl ∧ (sl.phase = .sending ∨ sl.phase = .awaiting) := by
  have hslot (n : SlotId) : (slotIn s .sending n || slotIn s .awaiting n) = true ↔
      ∃ sl, slotAt s n = some sl ∧ (sl.phase = .sending ∨ sl.phase = .awaiting) := by
    simp only [Bool.or_eq_true, slotIn_iff, and_or_left, exists_or]
  have hany : (allSlots.any fun n => slotIn s .sending n || slotIn s .awaiting n) = true ↔
      ∃ n sl, slotAt s n = some sl ∧ (sl.phase = .sending ∨ sl.phase = .awaiting) := by
    simp only [List.any_eq_true, hslot]
    simp [allSlots]
  rw [schedulerBusy, Bool.or_eq_true, hany]

theorem peerNode_eq_some {sl : Slot} {x : Nat} : sl.peerNode = some x ↔ sl.kind = .data ∧ sl.dest = x := by
  unfold Slot.peerNode
  cases sl.kind <;> simp

theorem Holds.eq_slot {s : State} {n m : SlotId} {sl sm : Slot} (h : Holds n sl s) (hm : slotAt s m = some sm)
    (hh : sm.holdsPeer = true) : m = n ∧ sm = sl := by
  obtain rfl := h.only m sm hm hh
  exact ⟨rfl, Option.some.inj (hm.symm.trans h.slot)⟩

/-- Where no slot stands in one of the three states, the law leaves no offer or a held notice. -/
theorem tsLaw_of_no_holder {s : State} (h : OfferLaw s)
    (hno : ∀ n sl, slotAt s n = some sl → sl.holdsPeer = false) : TsLaw s := by
  obtain ⟨_, _, hslot, hidle, hheld, _, hactives, _, _⟩ := h
  have hrest : Resting s := by
    refine ⟨hno, activeOnly_none.mpr fun p hp => ?_⟩
    by_contra ha
    obtain ⟨n, sl, hs, hh, _⟩ := hactives p hp (by simpa using ha)
    simp [hno n sl hs] at hh
  cases ho : s.lac.offer with
  | none => exact .resting hrest ho
  | some o =>
    cases o with
    | notice =>
      have hbusy := hidle (by simp [ho])
      rw [← Bool.not_eq_true, schedulerBusy_iff, not_or] at hbusy
      exact .notice hrest ho (hheld ho) (by simpa using hbusy.1)
    | slot n =>
      obtain ⟨sl, hs, hp⟩ := slotIn_iff.mp ((hslot n).mp ho)
      exact absurd (hno n sl hs) (by simp [holdsPeer_iff.mpr (.inl hp)])

/-- Where a slot stands in one of the three states, the law makes it the only one and the offer its own. -/
theorem tsLaw_of_holder {s : State} {n : SlotId} {sl : Slot} (h : OfferLaw s) (hs : slotAt s n = some sl)
    (hh : sl.holdsPeer = true) : TsLaw s := by
  obtain ⟨hone, hbeside, hslot, hidle, _, hactive, hactives, _, _⟩ := h
  have hholds : Holds n sl s := by
    refine ⟨hs, hh, fun m sm hm hhm => hone m n sm sl hm hs hhm hh, ?_, fun x hx => ?_, fun p hp ha => ?_⟩
    · by_contra hc
      simp [hbeside (by simpa using hc) n sl hs] at hh
    · obtain ⟨hk, rfl⟩ := peerNode_eq_some.mp hx
      exact hactive n sl hs hh hk
    · obtain ⟨m, sm, hm, hhm, hk, hd⟩ := hactives p hp ha
      obtain rfl := hone m n sm sl hm hs hhm hh
      obtain rfl := Option.some.inj (hs.symm.trans hm)
      exact peerNode_eq_some.mpr ⟨hk, hd⟩
  by_cases hp : sl.phase = .offered
  · exact .offered n sl hholds hp ((hslot n).mpr (slotIn_iff.mpr ⟨sl, hs, hp⟩))
  · refine .underway n sl hholds hp ?_
    by_contra ho
    have hbusy : schedulerBusy s = true :=
      schedulerBusy_iff.mpr (.inr ⟨n, sl, hs, (holdsPeer_iff.mp hh).resolve_left hp⟩)
    simp [hidle ho] at hbusy

theorem offerLaw_of_resting {s : State} (h : Resting s) (hoffer : ∀ n, s.lac.offer ≠ some (.slot n))
    (hidle : s.lac.offer ≠ none → noticeCommitted s = false)
    (hheld : s.lac.offer = some .notice → s.rq.notice ≠ none) (haddress : AddressLaw s) (hdrive : DriveLaw s) :
    OfferLaw s := by
  have hnone := h.slots
  refine ⟨fun n m sl sm hs _ hh => ?_, fun _ n sl hs => hnone n sl hs, fun n => ?_, fun ho => ?_, hheld,
    fun n sl hs hh => ?_, fun p hp ha => ?_, haddress, hdrive⟩
  · simp [hnone n sl hs] at hh
  · refine iff_of_false (hoffer n) fun hn => ?_
    obtain ⟨sl, hs, hp⟩ := slotIn_iff.mp hn
    simpa [Slot.holdsPeer, hp] using hnone n sl hs
  · rw [← Bool.not_eq_true, schedulerBusy_iff, not_or]
    refine ⟨by simp [hidle ho], ?_⟩
    rintro ⟨n, sl, hs, hp⟩
    simpa [holdsPeer_iff.mpr (.inr hp)] using hnone n sl hs
  · simp [hnone n sl hs] at hh
  · simp [activeOnly_none.mp h.peers p hp] at ha

theorem offerLaw_of_holds {s : State} {n : SlotId} {sl : Slot} (h : Holds n sl s)
    (hoffer : s.lac.offer = if sl.phase = .offered then some (.slot n) else none) (haddress : AddressLaw s)
    (hdrive : DriveLaw s) : OfferLaw s := by
  refine ⟨fun m k sm sk hm hk hhm hhk => ?_, fun hc => ?_, fun m => ?_, fun ho => ?_, fun ho => ?_,
    fun m sm hm hhm hk => ?_, fun p hp ha => ?_, haddress, hdrive⟩
  · rw [h.only m sm hm hhm, h.only k sk hk hhk]
  · simp [h.notice] at hc
  · rw [hoffer, slotIn_iff]
    constructor
    · intro ho
      split at ho <;> cases ho
      exact ⟨sl, h.slot, by assumption⟩
    · rintro ⟨sm, hm, hp⟩
      obtain ⟨rfl, rfl⟩ := h.eq_slot hm (holdsPeer_iff.mpr (.inl hp))
      rw [if_pos hp]
  · have hp : sl.phase = .offered := by
      by_contra hp
      simp [hoffer, hp] at ho
    rw [← Bool.not_eq_true, schedulerBusy_iff, not_or]
    refine ⟨by simp [h.notice], ?_⟩
    rintro ⟨m, sm, hm, hpm⟩
    obtain ⟨rfl, rfl⟩ := h.eq_slot hm (holdsPeer_iff.mpr (.inr hpm))
    simp [hp] at hpm
  · rw [hoffer] at ho
    split at ho <;> cases ho
  · obtain ⟨rfl, rfl⟩ := h.eq_slot hm hhm
    exact h.peers.1 _ (peerNode_eq_some.mpr ⟨hk, rfl⟩)
  · obtain ⟨hk, hd⟩ := peerNode_eq_some.mp (h.peers.2 p hp ha)
    exact ⟨n, sl, h.slot, h.holds, hk, hd⟩

/-- The law of the offer, by what TS is doing. -/
theorem offerLaw_iff {s : State} : OfferLaw s ↔ TsLaw s ∧ AddressLaw s ∧ DriveLaw s := by
  constructor
  · intro h
    refine ⟨?_, h.2.2.2.2.2.2.2⟩
    by_cases hno : ∀ n sl, slotAt s n = some sl → sl.holdsPeer = false
    · exact tsLaw_of_no_holder h hno
    · obtain ⟨n, sl, hs, hh⟩ : ∃ n sl, slotAt s n = some sl ∧ sl.holdsPeer = true := by simpa using hno
      exact tsLaw_of_holder h hs hh
  · rintro ⟨hts, haddress, hdrive⟩
    cases hts with
    | resting hr ho => exact offerLaw_of_resting hr (by simp [ho]) (by simp [ho]) (by simp [ho]) haddress hdrive
    | notice hr ho hn hc => exact offerLaw_of_resting hr (by simp [ho]) (fun _ => hc) (fun _ => hn) haddress hdrive
    | offered n sl hh hp ho => exact offerLaw_of_holds hh (by rw [if_pos hp, ho]) haddress hdrive
    | underway n sl hh hp ho => exact offerLaw_of_holds hh (by rw [if_neg hp, ho]) haddress hdrive

end Sys2Proof.Machine
end

section
/-! SUPPORT. Each shared operation of the scheduler, the queue and the receiver keeps the law of the offer. -/

namespace Sys2Proof.Machine

open Sys2Proof

/-! ### What does not bear on the law -/

/-- The same slots stand in OFFERED, SENDING or AWAITING, with the same records. -/
def SameHolders (s t : State) : Prop :=
  ∀ n sl, sl.holdsPeer = true → (slotAt t n = some sl ↔ slotAt s n = some sl)

theorem SameHolders.of_slots {s t : State} (h : t.ts.slots = s.ts.slots) : SameHolders s t := fun n _ _ => by
  rw [slotAt_congr h n]

/-- A slot that stands in none of the three states, before and after, is no holder. -/
theorem sameHolders_setSlot {s : State} {n : SlotId} {r : Option Slot}
    (hold : ∀ sl, slotAt s n = some sl → sl.holdsPeer = false) (hnew : ∀ sl, r = some sl → sl.holdsPeer = false) :
    SameHolders s (setSlot n r s) := by
  intro m sl hh
  rw [slotAt_setSlot]
  split
  · next e =>
    subst e
    exact iff_of_false (fun e => by simp [hnew sl e] at hh) fun e => by simp [hold sl e] at hh
  · rfl

theorem Resting.of_same {s t : State} (h : Resting s) (hslots : SameHolders s t)
    (hpeers : ActiveOnly none s.pt → ActiveOnly none t.pt) : Resting t := by
  refine ⟨fun n sl hs => ?_, hpeers h.peers⟩
  by_contra hh
  have hh : sl.holdsPeer = true := by simpa using hh
  simp [h.slots n sl ((hslots n sl hh).mp hs)] at hh

theorem Holds.of_same {s t : State} {n : SlotId} {sl : Slot} (h : Holds n sl s) (hslots : SameHolders s t)
    (hnotice : noticeCommitted t = noticeCommitted s)
    (hpeers : ActiveOnly sl.peerNode s.pt → ActiveOnly sl.peerNode t.pt) : Holds n sl t :=
  ⟨(hslots n sl h.holds).mpr h.slot, h.holds, fun m sm hm hh => h.only m sm ((hslots m sm hh).mp hm) hh,
    hnotice ▸ h.notice, hpeers h.peers⟩

theorem noticeCommitted_congr {s t : State} (h : t.rq.notice = s.rq.notice) :
    noticeCommitted t = noticeCommitted s := by
  simp only [noticeCommitted, h]

/-- The law looks at the holders, the offer, whether a notice is held and committed, and the active entries. -/
theorem TsLaw.of_same {s t : State} (h : TsLaw s) (hslots : SameHolders s t) (hoffer : t.lac.offer = s.lac.offer)
    (hcommitted : noticeCommitted t = noticeCommitted s) (hheld : s.rq.notice ≠ none → t.rq.notice ≠ none)
    (hpeers : ∀ d, ActiveOnly d s.pt → ActiveOnly d t.pt) : TsLaw t := by
  cases h with
  | resting hr ho => exact .resting (hr.of_same hslots (hpeers _)) (by rw [hoffer, ho])
  | notice hr ho hn hc =>
    exact .notice (hr.of_same hslots (hpeers _)) (by rw [hoffer, ho]) (hheld hn) (by rw [hcommitted, hc])
  | offered n sl hh hp ho =>
    exact .offered n sl (hh.of_same hslots hcommitted (hpeers _)) hp (by rw [hoffer, ho])
  | underway n sl hh hp ho =>
    exact .underway n sl (hh.of_same hslots hcommitted (hpeers _)) hp (by rw [hoffer, ho])

/-- The law through operations on the blocks that it does not look at. -/
theorem TsLaw.of_blocks {s t : State} (h : TsLaw s) (hslots : t.ts.slots = s.ts.slots)
    (hoffer : t.lac.offer = s.lac.offer) (hnotice : t.rq.notice = s.rq.notice) (hpeers : t.pt = s.pt) : TsLaw t :=
  h.of_same (.of_slots hslots) hoffer (noticeCommitted_congr hnotice) (by rw [hnotice]; exact id)
    fun _ => by rw [hpeers]; exact id

/-- The law through a change of the peer table that leaves the active entries. -/
theorem TsLaw.of_peers {s t : State} (h : TsLaw s) (hslots : t.ts.slots = s.ts.slots)
    (hoffer : t.lac.offer = s.lac.offer) (hnotice : t.rq.notice = s.rq.notice)
    (hpeers : ∀ d, ActiveOnly d s.pt → ActiveOnly d t.pt) : TsLaw t :=
  h.of_same (.of_slots hslots) hoffer (noticeCommitted_congr hnotice) (by rw [hnotice]; exact id) hpeers

/-! ### What the law says in a state -/

/-- A slot in OFFERED, SENDING or AWAITING is the one that the law speaks of. -/
theorem TsLaw.holds {s : State} {n : SlotId} {sl : Slot} (h : TsLaw s) (hs : slotAt s n = some sl)
    (hh : sl.holdsPeer = true) :
    Holds n sl s ∧ s.lac.offer = if sl.phase = .offered then some (.slot n) else none := by
  cases h with
  | resting hr _ => simp [hr.slots n sl hs] at hh
  | notice hr _ _ _ => simp [hr.slots n sl hs] at hh
  | offered m sm hm hp ho =>
    obtain ⟨rfl, rfl⟩ := hm.eq_slot hs hh
    exact ⟨hm, by rw [if_pos hp, ho]⟩
  | underway m sm hm hp ho =>
    obtain ⟨rfl, rfl⟩ := hm.eq_slot hs hh
    exact ⟨hm, by rw [if_neg hp, ho]⟩

/-- A slot found in SENDING or AWAITING is under way, with nothing offered. -/
theorem TsLaw.underway_of {s : State} {n : SlotId} {sl : Slot} {p : SlotPhase} (h : TsLaw s)
    (hp : p = .sending ∨ p = .awaiting) (hw : slotWhen s p n = some sl) : Holds n sl s ∧ s.lac.offer = none := by
  obtain ⟨hs, rfl⟩ := slotWhen_eq_some.mp hw
  obtain ⟨hh, ho⟩ := h.holds hs (holdsPeer_iff.mpr (.inr hp))
  refine ⟨hh, ?_⟩
  rcases hp with hp | hp <;> simpa [hp] using ho

/-- Beside a committed notice TS rests (R73). -/
theorem TsLaw.resting_of_committed {s : State} (h : TsLaw s) (hc : noticeCommitted s = true) :
    Resting s ∧ s.lac.offer = none := by
  cases h with
  | resting hr ho => exact ⟨hr, ho⟩
  | notice _ _ _ hn => simp [hn] at hc
  | offered _ _ hh _ _ => simp [hh.notice] at hc
  | underway _ _ hh _ _ => simp [hh.notice] at hc

/-! ### Changes of the holder -/

/-- The holder's record is replaced by one in another of the three states. -/
theorem Holds.setSlot {s : State} {n : SlotId} {sl sl' : Slot} (h : Holds n sl s) (hh : sl'.holdsPeer = true)
    (hnode : sl'.peerNode = sl.peerNode) : Holds n sl' (setSlot n (some sl') s) := by
  refine ⟨by simp, hh, fun m sm hm hhm => ?_, h.notice, hnode ▸ h.peers⟩
  rw [slotAt_setSlot] at hm
  split at hm
  · next e => exact e.symm
  · exact h.only m sm hm hhm

/-- The holder leaves the three states with its entry no longer active: TS rests. -/
theorem Holds.leave {s t : State} {n : SlotId} {sl sl' : Slot} (h : Holds n sl s) (hh : sl'.holdsPeer = false)
    (hslots : t.ts.slots = s.ts.slots.set n (some sl')) (hpeers : ActiveOnly none t.pt) : Resting t := by
  refine ⟨fun m sm hm => ?_, hpeers⟩
  rw [slotAt_congr (s := Machine.setSlot n (some sl') s) hslots, slotAt_setSlot] at hm
  split at hm
  · cases hm; exact hh
  · next hne =>
    by_contra hhm
    exact hne (h.only m sm hm (by simpa using hhm)).symm

theorem activeOnly_clearActive {s : State} {sl : Slot} (h : ActiveOnly sl.peerNode s.pt) :
    ActiveOnly none (clearActive sl s).pt := by
  unfold Slot.peerNode at h
  unfold clearActive
  split <;> simp only [*] at h
  · exact h
  · exact h.clear

/-- The end of a slot clears its own active entry, if it has one, and may take the entry out of sync (R84, R145). -/
theorem reportEnd_pt (o : SlotOutcome) (sl : Slot) (s : State) :
    (reportEnd o sl s).pt = (if sl.holdsPeer then clearActive sl s else s).pt ∨
      (reportEnd o sl s).pt = modifyPeer sl.dest unsyncPeer (if sl.holdsPeer then clearActive sl s else s).pt := by
  unfold reportEnd
  split
  · next hk => left; split <;> simp [clearActive, hk]
  · dsimp only
    generalize (if sl.holdsPeer = true then clearActive sl s else s) = u
    split
    · exact .inr rfl
    · exact .inl rfl

theorem activeOnly_reportEnd {s : State} {sl : Slot} {o : SlotOutcome} {d : Option Nat}
    (h : ActiveOnly d (if sl.holdsPeer then clearActive sl s else s).pt) : ActiveOnly d (reportEnd o sl s).pt := by
  rcases reportEnd_pt o sl s with e | e <;> rw [e]
  · exact h
  · exact activeOnly_modifyPeer h _ (fun _ => rfl) fun _ => rfl

@[simp] theorem completeSlot_slots (n : SlotId) (o : SlotOutcome) (sl : Slot) (s : State) :
    (completeSlot n o sl s).ts.slots =
      s.ts.slots.set n (some { sl with phase := .done o, chain := [], abortPending := false }) := by
  simp [completeSlot]

@[simp] theorem requeueFront_slots (n : SlotId) (sl : Slot) (s : State) :
    (requeueFront n sl s).ts.slots = s.ts.slots.set n (some { sl with phase := .queued }) := by
  simp [requeueFront]

/-- The holder is DONE (R84, R145). -/
theorem Holds.complete {s : State} {n : SlotId} {sl sl' : Slot} (h : Holds n sl s) (o : SlotOutcome)
    (hphase : sl'.phase = sl.phase) (hnode : sl'.peerNode = sl.peerNode) : Resting (completeSlot n o sl' s) := by
  have hh : sl'.holdsPeer = true := by rw [Slot.holdsPeer, hphase]; exact h.holds
  refine h.leave (by rfl) (completeSlot_slots n o sl' s) (activeOnly_reportEnd ?_)
  rw [if_pos hh]
  exact activeOnly_clearActive (by rw [hnode]; exact h.peers)

/-- The holder goes back to the front of its queue (R69, R145). -/
theorem Holds.requeue {s : State} {n : SlotId} {sl sl' : Slot} (h : Holds n sl s)
    (hnode : sl'.peerNode = sl.peerNode) : Resting (requeueFront n sl' s) :=
  h.leave (by rfl) (requeueFront_slots n sl' s) (activeOnly_clearActive (by rw [hnode]; exact h.peers))

/-- A slot in none of the three states is DONE (R87): the law does not see it. -/
theorem TsLaw.complete {s : State} {n : SlotId} {sl : Slot} (h : TsLaw s) (hs : slotAt s n = some sl)
    (hh : sl.holdsPeer = false) (o : SlotOutcome) : TsLaw (completeSlot n o sl s) := by
  have hslots : SameHolders s (completeSlot n o sl s) := by
    intro m sm hm
    rw [slotAt_congr (s := setSlot n (some { sl with phase := .done o, chain := [], abortPending := false }) s)
      (completeSlot_slots n o sl s)]
    exact sameHolders_setSlot (fun x hx => by rw [hs] at hx; cases hx; exact hh) (fun x hx => by cases hx; rfl) m sm hm
  refine h.of_same hslots (by simp) (noticeCommitted_congr (by simp)) (by simp) fun d hd => ?_
  refine activeOnly_reportEnd ?_
  rw [if_neg (by simp [hh])]
  exact hd

/-! ### The ends of an attempt -/

theorem tsLaw_of_resting {s t : State} (hr : Resting t) (ho : s.lac.offer = none) (hlac : t.lac = s.lac) :
    TsLaw t := .resting hr (by rw [hlac, ho])

theorem tsLaw_failOrRetry {s : State} {n : SlotId} {sl sl' : Slot} (h : Holds n sl s) (ho : s.lac.offer = none)
    (hphase : sl'.phase = sl.phase) (hnode : sl'.peerNode = sl.peerNode) : TsLaw (failOrRetry n sl' s) := by
  unfold failOrRetry
  split
  · exact tsLaw_of_resting (h.complete _ hphase hnode) ho (by simp)
  · exact tsLaw_of_resting (h.requeue hnode) ho (by simp)

theorem tsLaw_endUnanswered {s : State} (h : TsLaw s) (n : SlotId) : TsLaw (endUnanswered n s) := by
  unfold endUnanswered
  split
  · exact h
  · next sl hw =>
    obtain ⟨hh, ho⟩ := h.underway_of (.inr rfl) hw
    dsimp only
    split
    · exact tsLaw_of_resting (hh.complete .aborted rfl rfl) ho (by simp)
    · exact tsLaw_failOrRetry hh ho rfl rfl

theorem tsLaw_endEchoFault {s : State} (h : TsLaw s) (n : SlotId) : TsLaw (endEchoFault n s) := by
  unfold endEchoFault
  split
  · exact h
  · next sl hw =>
    obtain ⟨hh, ho⟩ := h.underway_of (.inl rfl) hw
    exact tsLaw_failOrRetry hh ho rfl rfl

theorem tsLaw_endCut {s : State} (h : TsLaw s) (n : SlotId) : TsLaw (endCut n s) := by
  unfold endCut
  split
  · exact h
  · next sl hw =>
    obtain ⟨hh, ho⟩ := h.underway_of (.inl rfl) hw
    exact tsLaw_of_resting (hh.requeue rfl) ho (by simp)

theorem tsLaw_endAborted {s : State} (h : TsLaw s) (n : SlotId) : TsLaw (endAborted n s) := by
  unfold endAborted
  split
  · exact h
  · next sl hw =>
    obtain ⟨hh, ho⟩ := h.underway_of (.inl rfl) hw
    exact tsLaw_of_resting (hh.complete .aborted rfl rfl) ho (by simp)

/-! ### A re-evaluation -/

theorem eligible_iff {s : State} {n : SlotId} :
    eligible s n = true ↔ ∃ sl, slotAt s n = some sl ∧ (sl.phase = .queued ∨ sl.phase = .offered) ∧
      s.sc.station.sends = true ∧ (sl.kind = .data → peerAdmits (freshPeer s) s.pt sl.dest = true) := by
  unfold eligible
  cases slotAt s n with
  | none => simp
  | some sl => cases hk : sl.kind <;> simp [and_assoc, hk]

/-- The notice that is chosen as the offer is eligible. -/
theorem chooseOffer_notice {s : State} (h : chooseOffer s = some .notice) : noticeEligible s = true := by
  by_contra hn
  have hslot : ∀ c, firstEligible s c ≠ some .notice := by
    intro c hc
    obtain ⟨n, hn, _⟩ := firstEligible_mem s c _ hc
    cases hn
  unfold chooseOffer at h
  cases h0 : firstEligible s .urgent <;> cases h2 : firstEligible s .control <;>
    cases h3 : firstEligible s .normal <;> simp_all

theorem noticeEligible_iff {s : State} :
    noticeEligible s = true ↔ s.sc.station.sends = true ∧ s.rq.notice ≠ none ∧ noticeCommitted s = false := by
  unfold noticeEligible noticeCommitted
  cases s.rq.notice <;> simp

/-- The offer of a scheduler that is not busy goes back, and TS rests (R75). -/
theorem resting_withdrawOffer {s : State} (h : TsLaw s) (hb : schedulerBusy s = false) :
    Resting (withdrawOffer s) := by
  cases h with
  | resting hr ho => simpa [withdrawOffer, ho] using hr
  | notice hr ho _ _ => exact hr.of_same (.of_slots (by simp [withdrawOffer, ho])) (by simp [withdrawOffer, ho])
  | offered n sl hh hp ho =>
    have hw : slotWhen s .offered n = some sl := slotWhen_of hh.slot hp
    have he : withdrawOffer s = clearActive sl (setSlot n (some { sl with phase := .queued })
        { s with lac := { s.lac with offer := none } }) := by
      unfold withdrawOffer
      simp only [ho]
      rw [show slotWhen s .offered n = some sl from hw]
    rw [he]
    exact hh.leave (sl' := { sl with phase := .queued }) rfl (by simp) (activeOnly_clearActive hh.peers)
  | underway n sl hh hp _ =>
    have := schedulerBusy_iff.mpr (.inr ⟨n, sl, hh.slot, (holdsPeer_iff.mp hh.holds).resolve_left hp⟩)
    simp [hb] at this

theorem tsLaw_withdrawOffer {s : State} (h : TsLaw s) : TsLaw (withdrawOffer s) := by
  by_cases hb : schedulerBusy s = true
  · have ho : s.lac.offer = none := by
      cases h with
      | resting _ ho => exact ho
      | notice hr _ _ hc =>
        rcases schedulerBusy_iff.mp hb with hc' | ⟨n, sl, hs, hp⟩
        · simp [hc] at hc'
        · simpa [holdsPeer_iff.mpr (.inr hp)] using hr.slots n sl hs
      | offered n sl hh hp _ =>
        rcases schedulerBusy_iff.mp hb with hc | ⟨m, sm, hs, hpm⟩
        · simp [hh.notice] at hc
        · obtain ⟨rfl, rfl⟩ := hh.eq_slot hs (holdsPeer_iff.mpr (.inr hpm))
          simp [hp] at hpm
      | underway _ _ _ _ ho => exact ho
    simpa [withdrawOffer, ho] using h
  · exact .resting (resting_withdrawOffer h (by simpa using hb)) (withdrawOffer_spec s).2

theorem tsLaw_preparePeer {s : State} (h : TsLaw s) (o : Offer) : TsLaw (preparePeer o s) := by
  refine h.of_peers (by simp) (by simp) (by simp) fun d hd => ?_
  rw [preparePeer_pt]
  split
  · exact hd
  · exact activeOnly_ensurePeer hd

/-- A withdrawal keeps the entry that is found for a node. -/
theorem findPeer_withdrawOffer (s : State) (x : Nat) :
    (findPeer (withdrawOffer s).pt x).isSome = (findPeer s.pt x).isSome := by
  rw [withdrawOffer_pt]
  split
  · rfl
  · rw [findPeer_map fun p => by split <;> rfl, Option.isSome_map]

@[simp] theorem installOffer_offer (o : Offer) (s : State) : (installOffer o s).lac.offer = some o := by
  unfold installOffer
  split
  · rfl
  · split
    · rfl
    · dsimp only
      split <;> rfl

/-- A candidate becomes the offer of a scheduler that rests (R75, R145). -/
theorem tsLaw_installOffer {s : State} {o : Offer} (h : Resting s) (hc : noticeCommitted s = false)
    (hn : o = .notice → s.rq.notice ≠ none)
    (hslot : ∀ n, o = .slot n → ∃ sl, slotAt s n = some sl ∧ (sl.kind = .data → (findPeer s.pt sl.dest).isSome)) :
    TsLaw (installOffer o s) := by
  cases o with
  | notice => exact .notice (h.of_same (.of_slots rfl) id) rfl (hn rfl) hc
  | slot n =>
    obtain ⟨sl, hs, hpeer⟩ := hslot n rfl
    have hnode : Slot.peerNode { sl with phase := .offered } = offeredPeer s (some (.slot n)) := by
      cases hk : sl.kind <;> simp [Slot.peerNode, offeredPeer, hs, hk]
    refine .offered n { sl with phase := .offered } ⟨?_, rfl, fun m sm hm hh => ?_, ?_, ?_⟩ rfl ?_
    · rw [installOffer_slotAt, hs]; simp
    · rw [installOffer_slotAt] at hm
      obtain ⟨x, hx, rfl⟩ := Option.map_eq_some_iff.mp hm
      split at hh
      · next e => exact (Offer.slot.inj e).symm
      · simp [h.slots m x hx] at hh
    · rw [noticeCommitted_congr (s := s) (by simp)]; exact hc
    · rw [hnode]
      cases hk : sl.kind with
      | datagram =>
        rw [installOffer_pt]
        simpa [offeredPeer, hs, hk] using h.peers
      | data =>
        have hset := h.peers.set (hpeer hk)
        simpa [installOffer, hs, hk, offeredPeer] using hset
    · exact installOffer_offer _ _

/-- A candidate that is eligible is presented by a scheduler that is not busy (R75). -/
theorem tsLaw_presentOffer {s : State} {o : Offer} (h : TsLaw s) (hb : schedulerBusy s = false)
    (ho : chooseOffer s = some o) : TsLaw (presentOffer o s) := by
  have hprepared := tsLaw_preparePeer h o
  have hidle : noticeCommitted s = false ∧ schedulerBusy (preparePeer o s) = false := by
    refine ⟨?_, by rw [preparePeer_spec]; exact hb⟩
    by_contra hc
    simp [schedulerBusy_iff.mpr (.inl (by simpa using hc))] at hb
  have hkeep : (withdrawOffer (preparePeer o s)).rq.notice = s.rq.notice := by simp
  refine tsLaw_installOffer (resting_withdrawOffer hprepared hidle.2)
    (by rw [noticeCommitted_congr hkeep]; exact hidle.1) (fun e => ?_) fun n e => ?_
  · subst e
    rw [hkeep]
    exact (noticeEligible_iff.mp (chooseOffer_notice ho)).2.1
  · subst e
    obtain ⟨sl, hs, _, _, hadmits⟩ := eligible_iff.mp (chooseOffer_slot s n ho)
    have hs' : slotAt (preparePeer (.slot n) s) n = some sl := by rw [preparePeer_spec]; exact hs
    refine ⟨_, by rw [withdrawOffer_slotAt, hs', Option.map_some], fun hk => ?_⟩
    rw [Slot.afterOffer_kind] at hk
    obtain ⟨qs, hq, hfound⟩ := ensurePeer_of_peerAdmits (hadmits hk)
    rw [Slot.afterOffer_dest, findPeer_withdrawOffer, preparePeer_pt]
    simpa [offeredPeer, hs, hk, hq] using hfound

theorem tsLaw_reevaluate {s : State} (h : TsLaw s) : TsLaw (reevaluate s) := by
  unfold reevaluate
  split
  · exact h
  · next hb =>
    have hb : schedulerBusy s = false := by
      simp only [Bool.or_eq_true, not_or, Bool.not_eq_true] at hb
      exact hb.1
    split
    · exact tsLaw_withdrawOffer h
    · next ho =>
      split
      · exact h
      · exact tsLaw_presentOffer h hb ho

/-! ### The window and the response -/

theorem tsLaw_takeNoResponse {s : State} (h : TsLaw s) (n : SlotId) : TsLaw (takeNoResponse n s) :=
  tsLaw_reevaluate (tsLaw_endUnanswered h n)

theorem tsLaw_failCandidate {s : State} (h : TsLaw s) : TsLaw (failCandidate s) := by
  unfold failCandidate
  split
  · exact h
  · exact tsLaw_takeNoResponse h _

/-- The peer's answer moves its entry to the front and leaves it active (R151, R152). -/
theorem TsLaw.touched {s t : State} (h : TsLaw s) {node : Nat} {f : Peer → Peer}
    (hpt : t.pt = modifyPeer node f (touchPeer node s.pt)) (hnode : ∀ p, (f p).node = p.node)
    (hactive : ∀ p, (f p).active = p.active) (hslots : t.ts.slots = s.ts.slots)
    (hoffer : t.lac.offer = s.lac.offer) (hnotice : t.rq.notice = s.rq.notice) : TsLaw t :=
  h.of_peers hslots hoffer hnotice fun _ hd => by
    rw [hpt]; exact activeOnly_modifyPeer (activeOnly_touchPeer hd node) node hnode hactive

theorem tsLaw_takeAck {s : State} (h : TsLaw s) (n : SlotId) : TsLaw (takeAck n s) := by
  unfold takeAck
  split
  · exact h
  · next sl hw =>
    have hacked : TsLaw (ackPeer sl.dest s) := h.touched rfl (fun _ => rfl) (fun _ => rfl) rfl rfl rfl
    obtain ⟨hh, ho⟩ := hacked.underway_of (.inr rfl) (show slotWhen (ackPeer sl.dest s) .awaiting n = some sl from hw)
    exact tsLaw_reevaluate (tsLaw_of_resting (hh.complete .delivered rfl rfl) ho (by simp))

theorem tsLaw_takeBusy {s : State} (h : TsLaw s) (n : SlotId) (v : Byte) : TsLaw (takeBusy n v s) := by
  unfold takeBusy
  split
  · exact h
  · next sl hw =>
    have hbusy : TsLaw (busyPeer sl.dest s) := h.touched rfl (fun _ => rfl) (fun _ => rfl) rfl rfl rfl
    obtain ⟨hh, ho⟩ := hbusy.underway_of (.inr rfl) (show slotWhen (busyPeer sl.dest s) .awaiting n = some sl from hw)
    refine tsLaw_reevaluate ?_
    split
    · exact tsLaw_of_resting (hh.complete .aborted rfl rfl) ho (by simp)
    · split
      · exact tsLaw_of_resting (hh.complete .refused rfl rfl) ho (by simp)
      · exact tsLaw_of_resting (hh.requeue rfl) ho (by simp)

theorem tsLaw_judgeCandidate {s : State} (h : TsLaw s) (r : Rx) : TsLaw (judgeCandidate r s) := by
  unfold judgeCandidate
  split
  · exact h
  · split
    · exact h
    · split
      · split
        · exact tsLaw_takeAck h _
        · exact tsLaw_takeBusy h _ _
      · exact tsLaw_takeNoResponse h _

theorem tsLaw_reportCandidate {s : State} (h : TsLaw s) (how : Ending) (r : Rx) :
    TsLaw (reportCandidate how r s) := by
  unfold reportCandidate
  split
  · exact tsLaw_judgeCandidate h r
  · exact tsLaw_failCandidate h

theorem tsLaw_releasePeer {s : State} (h : TsLaw s) (node : Nat) : TsLaw (releasePeer node s) :=
  tsLaw_reevaluate (h.of_peers rfl rfl rfl fun _ hd => activeOnly_modifyPeer hd node (fun _ => rfl) fun _ => rfl)

/-! ### The receiver decision and the end of a reception -/

theorem activeOnly_decideRow {s : State} {d : Option Nat} (p : Peer) (r : Rx) (h : ActiveOnly d s.pt) :
    ActiveOnly d (decideRow p r s).pt := by
  unfold decideRow
  split
  · exact h
  · split
    · simpa using h
    · split
      · simpa using h
      · split
        · simpa using h
        · have hknown := activeOnly_modifyPeer
            (f := fun q => { q with rxKnown := true, rxSeq := r.seq, rxResync := r.resync }) h r.src (fun _ => rfl)
            fun _ => rfl
          simpa [deliver] using hknown

theorem activeOnly_decideData {s : State} {d : Option Nat} (r : Rx) (h : ActiveOnly d s.pt) :
    ActiveOnly d (decideData r s).pt := by
  unfold decideData
  split
  · exact activeOnly_decideRow _ _ (activeOnly_touchPeer h _)
  · next hf =>
    split
    · exact h
    · next room hr =>
      simpa using activeOnly_decideRow (s := { s with pt := newPeer r.src :: room }) _ r
        (activeOnly_newPeer h hf hr)

theorem tsLaw_dealGood {s : State} (h : TsLaw s) (r : Rx) : TsLaw (dealGood r s) := by
  unfold dealGood
  split
  · exact h
  · exact h
  · rcases takeReady_cases r s with e | e <;> rw [e]
    · exact h
    · exact tsLaw_releasePeer h _
  · split
    · exact h.of_blocks rfl rfl rfl rfl
    · dsimp only
      split
      · exact h.of_peers (by simp) (by simp) (by simp) fun _ hd => activeOnly_decideData r (by simpa using hd)
      · exact h.of_blocks (by simp) (by simp) (by simp) (by simp)
  · split
    · exact h.of_blocks rfl rfl rfl rfl
    · exact h.of_blocks (by simp) (by simp) (by simp) (by simp)

theorem tsLaw_endReception {s : State} (h : TsLaw s) (how : Ending) : TsLaw (endReception how s) :=
  endReception_stages h (h.of_blocks (by simp) (by simp) (by simp) (by simp))
    (fun r _ hu => tsLaw_reportCandidate hu how r) (fun r _ hu => tsLaw_dealGood hu r)
    (fun _ _ _ hu => hu.of_blocks (by simp) (by simp) (by simp) (by simp)) fun _ hu => tsLaw_reevaluate hu

theorem TsLaw.of_sameLine {s t : State} (h : TsLaw s) (hs : SameLine s t) : TsLaw t :=
  h.of_blocks hs.slots hs.offer hs.notice hs.peers

theorem TsLaw.of_heard {s t : State} (h : TsLaw s) (ht : Heard s t) : TsLaw t := by
  have moved : ∀ {u}, ReceiverMoved s u → TsLaw u := fun {u} hu =>
    (h.of_blocks (t := { s with fr := u.fr }) rfl rfl rfl rfl).of_sameLine hu.1
  cases ht with
  | on hu => exact moved hu
  | ended how hu => exact tsLaw_endReception (moved hu) how

/-! ### Marks of the quiet count, and rows of other stations -/

theorem tsLaw_closeAtDeadline {s : State} (h : TsLaw s) : TsLaw (closeAtDeadline s) := by
  unfold closeAtDeadline
  split
  · exact h
  · refine tsLaw_takeNoResponse ?_ _
    exact h.of_blocks rfl rfl rfl rfl

theorem tsLaw_takeMarks {s : State} (h : TsLaw s) : TsLaw (takeMarks s) :=
  takeMarks_stages h (fun _ _ hu => hu.of_blocks rfl rfl rfl rfl) (fun _ hu _ => tsLaw_endReception hu _)
    (fun _ hu _ => tsLaw_closeAtDeadline hu) fun _ hu => hu.of_blocks rfl rfl rfl rfl

theorem tsLaw_takeStartBit {s : State} (h : TsLaw s) : TsLaw (takeStartBit s) := by
  unfold takeStartBit
  split
  · split
    · unfold takeStray strayCandidate
      split
      · exact h.of_blocks (by simp) (by simp) (by simp) (by simp)
      · exact tsLaw_failCandidate (h.of_blocks (by simp) (by simp) (by simp) (by simp))
    · exact h.of_blocks rfl rfl rfl rfl
  all_goals exact h.of_blocks rfl rfl rfl rfl

/-! ### The READY notice and congestion -/

/-- New contents leave a held notice committed or pending (R129, R130). -/
theorem Notice.add_committed (n : Notice) (new : Named) : (n.add new).committed = n.committed := by
  unfold Notice.add
  split <;> simp_all

/-- What a build does before TS re-evaluates keeps whether a notice is committed. -/
theorem tsLaw_buildNotice {s : State} (h : TsLaw s) : TsLaw (buildNotice s) := by
  unfold buildNotice
  split
  · exact h
  · refine tsLaw_reevaluate (h.of_same (.of_slots rfl) rfl ?_ (by simp) fun _ => id)
    cases hn : s.rq.notice with
    | none => simp [noticeCommitted, hn]
    | some n => simp [noticeCommitted, hn, Notice.add_committed]

theorem tsLaw_testExit {s : State} (h : TsLaw s) : TsLaw (testExit s) := by
  unfold testExit leaveCongestion
  split
  · dsimp only
    split
    · exact h.of_blocks rfl rfl rfl rfl
    · exact tsLaw_buildNotice (h.of_blocks rfl rfl rfl rfl)
  · exact h

theorem tsLaw_testMarks {s : State} (h : TsLaw s) : TsLaw (testMarks s) := by
  unfold testMarks
  split
  · exact tsLaw_testExit h
  · exact h.of_blocks (by simp) (by simp) (by simp) (by simp)

/-- The committed notice that returns to pending is still held (R131). -/
theorem tsLaw_revertNotice {s : State} (h : TsLaw s) : TsLaw (revertNotice s) := by
  have hpending : noticeCommitted (revertNotice s) = false := by
    unfold noticeCommitted revertNotice
    cases s.rq.notice <;> simp [Notice.revert]
  have hheld : s.rq.notice ≠ none → (revertNotice s).rq.notice ≠ none := by simp [revertNotice]
  by_cases hc : noticeCommitted s = true
  · obtain ⟨hr, ho⟩ := h.resting_of_committed hc
    exact .resting (hr.of_same (.of_slots rfl) id) ho
  · exact h.of_same (.of_slots rfl) rfl (by rw [hpending]; simpa using hc) hheld fun _ => id

end Sys2Proof.Machine
end

section
/-! SUPPORT. LAC's own rows and the commands keep the law of the offer. -/

namespace Sys2Proof.Machine

open Sys2Proof

/-! ### LAC's own rows -/

/-- The offer is committed (R76): a notice leaves TS at rest beside it, a slot's attempt is under way. -/
theorem tsLaw_commitOffer {s : State} {o : Offer} {chars : List Byte} (h : TsLaw s) (ho : s.lac.offer = some o) :
    TsLaw (commitOffer o chars s) := by
  unfold commitOffer
  cases o with
  | notice =>
    cases h with
    | notice hr _ _ _ => exact .resting (hr.of_same (.of_slots rfl) id) rfl
    | resting _ ho' | underway _ _ _ _ ho' | offered _ _ _ _ ho' => simp [ho] at ho'
  | slot n =>
    dsimp only
    cases h with
    | offered m sl hh hp ho' =>
      cases ho.symm.trans ho'
      rw [slotWhen_of hh.slot hp]
      have hsending := hh.setSlot (sl' := { sl with phase := .sending, sentSeq := slotSeq s sl }) rfl rfl
      exact .underway n _ (hsending.of_same (.of_slots rfl) rfl id) nofun rfl
    | resting _ ho' | underway _ _ _ _ ho' | notice _ ho' _ _ => simp [ho] at ho'

theorem tsLaw_leadStart {s t : State} (h : TsLaw s) (ht : exec .leadStart s = .next t) : TsLaw t := by
  rcases exec_leadStart_cases ht with rfl | ⟨o, chars, ho, _, _, rfl⟩
  · exact h
  · exact tsLaw_commitOffer (h.of_blocks (by simp) (by simp) (by simp) (by simp)) (by simpa using ho)

/-- The committed offer comes back (R70, R131): the holder OFFERED, or the notice pending, is the offer. -/
theorem tsLaw_returnOffer {s : State} {src : BurstSource} (h : TsLaw s)
    (hn : src = .notice → noticeCommitted s = true) : TsLaw (returnOffer src s) := by
  unfold returnOffer
  cases src with
  | response => exact h
  | notice =>
    obtain ⟨hr, _⟩ := h.resting_of_committed (hn rfl)
    obtain ⟨nt, hnt⟩ : ∃ nt, s.rq.notice = some nt := by
      have := hn rfl
      unfold noticeCommitted at this
      split at this
      · cases this
      · exact ⟨_, by assumption⟩
    exact .notice (hr.of_same (.of_slots rfl) id) rfl (by simp [revertNotice, hnt])
      (by simp [noticeCommitted, revertNotice, hnt, Notice.revert])
  | slot n ahead =>
    dsimp only
    split
    · exact h
    · next sl hw =>
      obtain ⟨hh, _⟩ := h.underway_of (.inl rfl) hw
      have hoffered := hh.setSlot (sl' := { sl with phase := .offered }) rfl rfl
      exact .offered n _ (hoffered.of_same (.of_slots rfl) rfl id) rfl rfl

theorem tsLaw_loseLead {s : State} {b : Burst} (h : TsLaw s) (k : Nat)
    (hn : b.source = .notice → noticeCommitted s = true) : TsLaw (loseLead b k s) :=
  tsLaw_reevaluate (tsLaw_returnOffer (h.of_blocks (by simp) (by simp) (by simp) (by simp))
    fun e => by rw [noticeCommitted_congr (s := s) (by simp)]; exact hn e)

theorem tsLaw_reportCut {s : State} (h : TsLaw s) (src : BurstSource) : TsLaw (reportCut src s) := by
  unfold reportCut
  split
  · exact h
  · exact tsLaw_revertNotice h
  · exact tsLaw_endEchoFault h _

/-- TS on leaving ONLINE or LOOP (R90, R131). -/
theorem tsLaw_stopScheduler {s : State} (h : TsLaw s) : TsLaw (stopScheduler s) := by
  have hcut : TsLaw (cutSlot (withdrawOffer s)) := by
    unfold cutSlot
    split
    · exact tsLaw_endCut (tsLaw_withdrawOffer h) _
    · exact tsLaw_withdrawOffer h
  have hclosed : TsLaw (closeWindow (cutSlot (withdrawOffer s))) := by
    unfold closeWindow
    split
    · exact hcut
    · exact tsLaw_endUnanswered hcut _
  unfold stopScheduler returnNotice
  split
  · exact tsLaw_revertNotice hclosed
  · exact hclosed

theorem tsLaw_leaveLine {s : State} (h : TsLaw s) (target : Station) : TsLaw (leaveLine target s) := by
  have hstopped : TsLaw (stopScheduler (setStation target s)) :=
    tsLaw_stopScheduler (h.of_blocks rfl rfl rfl rfl)
  exact hstopped.of_blocks (by simp [leaveLine]) (by simp [leaveLine]) (by simp [leaveLine]) (by simp [leaveLine])

theorem tsLaw_takeEchoFault {s : State} (h : TsLaw s) (b : Burst) (k : Nat) : TsLaw (takeEchoFault b k s) := by
  refine tsLaw_reevaluate ?_
  have hcut : ∀ u, TsLaw u → TsLaw (applyFaultLimit (reportCut b.source u)) := by
    intro u hu
    unfold applyFaultLimit
    split
    · exact (tsLaw_leaveLine (tsLaw_reportCut hu _) .silent).of_blocks rfl rfl rfl rfl
    · exact tsLaw_reportCut hu _
  exact hcut _ (h.of_blocks (by simp) (by simp) (by simp) (by simp))

/-- A slot's frame has been sent completely (R78): DONE SENT, or AWAITING. -/
theorem tsLaw_slotSent {s : State} (h : TsLaw s) (n : SlotId) : TsLaw (slotSent n s) := by
  unfold slotSent
  split
  · exact h
  · next sl hw =>
    obtain ⟨hh, ho⟩ := h.underway_of (.inl rfl) hw
    have hdemoted : Holds n sl (demote sl.cls s) := hh.of_same (.of_slots rfl) rfl id
    dsimp only
    split
    · exact .resting (hdemoted.complete .sent rfl rfl) (by simpa using ho)
    · have hawaiting := hdemoted.setSlot (sl' := { sl with phase := .awaiting }) rfl rfl
      exact .underway n _ (hawaiting.of_same (.of_slots rfl) rfl id) nofun ho

theorem tsLaw_reportSent {s : State} {src : BurstSource} (h : TsLaw s)
    (hn : src = .notice → noticeCommitted s = true) : TsLaw (reportSent src s) := by
  unfold reportSent
  cases src with
  | response => exact h
  | notice =>
    obtain ⟨hr, ho⟩ := h.resting_of_committed (hn rfl)
    exact .resting (hr.of_same (.of_slots rfl) id) ho
  | slot n _ => exact tsLaw_slotSent h n

theorem tsLaw_frameEnd {s : State} (h : TsLaw s) (b : Burst) : TsLaw (takeFrameEnd b s) :=
  h.of_blocks (by simp) (by simp) (by simp) (by simp)

theorem tsLaw_responseStart {s t : State} (h : TsLaw s) (ht : exec .responseStart s = .next t) : TsLaw t := by
  rcases exec_responseStart_cases ht with rfl | ⟨chars, u, _, _, rfl, rfl⟩
  · exact h
  · have hreach : TsLaw (reachQuiet Config.responseGap s) := h.of_blocks rfl rfl rfl rfl
    exact (tsLaw_takeMarks hreach).of_blocks (by simp) (by simp) (by simp) (by simp)

/-! ### Commands -/

theorem TsLaw.answered {s : State} (h : TsLaw s) (c : Cst) (r : Quad) : TsLaw (answer c r s) :=
  h.of_blocks rfl rfl rfl rfl

/-- A slot that stands in none of the three states, before and after, is given a record or loses it. -/
theorem TsLaw.setSlot {s t : State} {n : SlotId} {r : Option Slot} (h : TsLaw s)
    (hold : ∀ sl, slotAt s n = some sl → sl.holdsPeer = false) (hnew : ∀ sl, r = some sl → sl.holdsPeer = false)
    (hslots : t.ts.slots = (Machine.setSlot n r s).ts.slots) (hoffer : t.lac.offer = s.lac.offer)
    (hnotice : t.rq.notice = s.rq.notice) (hpeers : t.pt = s.pt) : TsLaw t := by
  have hset : TsLaw (Machine.setSlot n r s) :=
    h.of_same (sameHolders_setSlot hold hnew) rfl rfl id fun _ => id
  exact hset.of_blocks hslots hoffer hnotice hpeers

theorem holdsPeer_of_phase {sl : Slot} {p : SlotPhase} (h : sl.phase = p)
    (hp : p ≠ .offered ∧ p ≠ .sending ∧ p ≠ .awaiting) : sl.holdsPeer = false := by
  simp [Slot.holdsPeer, h, hp]

theorem tsLaw_cutByAbort {s : State} (h : TsLaw s) : TsLaw (cutByAbort s) := by
  have hstopped : TsLaw (stopBurst .quiet { s with lac := { s.lac with path := [] } }) :=
    h.of_blocks rfl rfl rfl rfl
  unfold cutByAbort
  dsimp only
  split
  · exact h
  · split
    · exact (tsLaw_endReception hstopped .truncated).of_blocks rfl rfl rfl rfl
    · exact hstopped.of_blocks (by simp) (by simp) (by simp) (by simp)

theorem tsLaw_abortSlot {s : State} {n : SlotId} {sl : Slot} (h : TsLaw s) (hs : slotAt s n = some sl) :
    TsLaw (abortSlot n sl s) := by
  have hrecord : ∀ x, slotAt s n = some x → x = sl := fun x hx => Option.some.inj (hx.symm.trans hs)
  unfold abortSlot
  split
  · next hp =>
    refine TsLaw.answered (tsLaw_reevaluate ?_) _ _
    refine h.setSlot (n := n) (r := none) (fun x hx => ?_) nofun rfl rfl rfl rfl
    rw [hrecord x hx]
    exact holdsPeer_of_phase hp (by simp)
  · next hp =>
    have hdequeued : TsLaw (dequeue sl.cls n s) := h.of_blocks rfl rfl rfl rfl
    exact (tsLaw_reevaluate (hdequeued.complete hs (holdsPeer_of_phase hp (by simp)) .aborted)).answered _ _
  · next hp =>
    obtain ⟨hh, _⟩ := h.holds hs (holdsPeer_iff.mpr (.inl hp))
    have hdequeued : Holds n sl (dequeue sl.cls n { s with lac := { s.lac with offer := none } }) :=
      hh.of_same (.of_slots rfl) rfl id
    exact (tsLaw_reevaluate (.resting (hdequeued.complete .aborted rfl rfl) (by simp))).answered _ _
  · exact (tsLaw_reevaluate (tsLaw_endAborted (tsLaw_cutByAbort h) n)).answered _ _
  · next hp =>
    obtain ⟨hh, ho⟩ := h.holds hs (holdsPeer_iff.mpr (.inr (.inr hp)))
    have hpending := hh.setSlot (sl' := { sl with abortPending := true }) hh.holds rfl
    exact (TsLaw.underway n _ hpending (by simp [hp]) (by simpa [hp] using ho)).answered _ _
  · exact h.answered _ _

/-- The notice is discarded while nothing is offered (R131). -/
theorem tsLaw_discardNotice {s : State} (h : TsLaw s) (ho : s.lac.offer = none) : TsLaw (discardNotice s) := by
  cases h with
  | resting hr _ => exact .resting (hr.of_same (.of_slots rfl) id) ho
  | underway n sl hh hp _ => exact .underway n sl (hh.of_same (.of_slots rfl) hh.notice.symm id) hp ho
  | notice _ ho' _ _ | offered _ _ _ _ ho' => simp [ho] at ho'

theorem tsLaw_stopHearing {s : State} (h : TsLaw s) : TsLaw (stopHearing s) :=
  h.of_blocks (by simp) (by simp) (by simp) (by simp)

theorem tsLaw_goOnlineBody {s : State} (h : TsLaw s) : TsLaw (goOnlineBody s) := by
  unfold goOnlineBody
  split
  · exact h.answered _ _
  · refine (tsLaw_reevaluate ?_).answered _ _
    unfold goOnlineChange
    split
    · exact h.of_blocks rfl rfl rfl rfl
    · exact h.of_blocks rfl rfl rfl rfl
    · exact h.of_blocks rfl rfl rfl rfl
    · exact h.of_blocks rfl rfl rfl rfl
    · refine tsLaw_leaveLine ?_ _
      exact h.of_blocks rfl rfl rfl rfl

theorem tsLaw_goListenBody {s : State} (h : TsLaw s) : TsLaw (goListenBody s) := by
  unfold goListenBody
  refine TsLaw.answered ?_ _ _
  split
  · exact h.of_blocks rfl rfl rfl rfl
  · exact h
  · exact h.of_blocks rfl rfl rfl rfl
  · exact tsLaw_leaveLine h _
  · exact tsLaw_leaveLine h _

theorem tsLaw_goOfflineBody {s : State} (hst : StationLaw s) (h : TsLaw s) : TsLaw (goOfflineBody s) := by
  have hoffer (hs : s.sc.station.sends = false) : s.lac.offer = none := (hst.idle hs).2.1
  unfold goOfflineBody
  refine TsLaw.answered ?_ _ _
  split
  · next hs => exact tsLaw_discardNotice h (hoffer (by rw [hs]; rfl))
  · next hs => exact tsLaw_discardNotice (tsLaw_stopHearing h) (by simpa using hoffer (by rw [hs]; rfl))
  · next hs => exact tsLaw_discardNotice (tsLaw_stopHearing h) (by simpa using hoffer (by rw [hs]; rfl))
  · exact tsLaw_discardNotice (tsLaw_leaveLine h _) (by simp [leaveLine])
  · exact tsLaw_discardNotice (tsLaw_leaveLine h _) (by simp [leaveLine])

/-- An entry that is not active goes (R146). -/
theorem tsLaw_removePeer {s : State} {node : Nat} {p : Peer} (h : TsLaw s) (hf : findPeer s.pt node = some p)
    (hp : p.active = false) : TsLaw { s with pt := removePeer node s.pt } := by
  refine h.of_peers rfl rfl rfl fun d hd => activeOnly_removePeer hd ?_
  rintro rfl
  obtain ⟨q, hq, ha⟩ := hd.1 node rfl
  rw [hf] at hq
  cases hq
  simp [hp] at ha

theorem tsLaw_of_nothing {s : State} (hslots : s.ts.slots = Ts.reset.slots) (hlac : s.lac = .reset)
    (hpt : s.pt = []) : TsLaw s := by
  refine .resting ⟨fun n sl hs => ?_, activeOnly_none.mpr (by simp [hpt])⟩ (by rw [hlac]; rfl)
  simp [slotAt, hslots, Ts.reset] at hs

theorem tsLaw_commandBody {s : State} (hst : StationLaw s) (h : TsLaw s) (c : HostCommand) :
    TsLaw (commandBody c s) := by
  cases c with
  | allocate =>
    simp only [commandBody, allocateBody]
    split
    · exact h.answered _ _
    · split
      · exact h.answered _ _
      · next n hfree =>
        split
        · exact h.answered _ _
        · have hnone : slotAt s n = none := by simpa using List.find?_some hfree
          exact h.setSlot (n := n) (r := some _) (by simp [hnone]) (fun x hx => by cases hx; rfl) rfl rfl rfl rfl
  | submit =>
    simp only [commandBody, submitBody]
    split
    · exact h.answered _ _
    · next n _ =>
      split
      · exact h.answered _ _
      · next sl hs =>
        split
        · exact h.answered _ _
        · next hp =>
          refine TsLaw.answered (tsLaw_reevaluate ?_) _ _
          refine h.setSlot (n := n) (r := some _) (fun x hx => ?_) (fun x hx => ?_) rfl rfl rfl rfl
          · rw [hs] at hx
            cases hx
            exact holdsPeer_of_phase (not_not.mp hp) (by simp)
          · cases hx; rfl
  | abort =>
    simp only [commandBody, abortBody]
    split
    · exact h.answered _ _
    · split
      · exact h.answered _ _
      · next hs => exact tsLaw_abortSlot h hs
  | collect =>
    simp only [commandBody, collectBody]
    split
    · exact h.answered _ _
    · next n rest _ =>
      split
      · exact h.of_blocks rfl rfl rfl rfl
      · next o sl hc =>
        refine h.setSlot (n := n) (r := none) (fun x hx => ?_) nofun rfl rfl rfl rfl
        simp only [collectable, hx, Option.map_eq_some_iff] at hc
        obtain ⟨o', ho', _⟩ := hc
        cases hp : x.phase <;> simp_all [SlotPhase.outcome, Slot.holdsPeer]
  | release =>
    simp only [commandBody, releaseBody]
    split
    · exact h.answered _ _
    · exact (tsLaw_testExit (h.of_blocks (by simp) (by simp) (by simp) (by simp))).answered _ _
  | flush =>
    simp only [commandBody, flushBody]
    refine (tsLaw_testExit (h.of_blocks ?_ ?_ ?_ ?_)).answered _ _ <;> split <;> simp
  | pause => exact h.of_blocks rfl rfl rfl rfl
  | resume =>
    simp only [commandBody, resumeBody]
    refine TsLaw.answered ?_ _ _
    split
    · refine tsLaw_buildNotice ?_
      exact h.of_blocks rfl rfl rfl rfl
    · exact h.of_blocks rfl rfl rfl rfl
  | forget =>
    simp only [commandBody, forgetBody]
    split
    · exact h.answered _ _
    · split
      · exact h.answered _ _
      · next p hf =>
        split
        · exact h.answered _ _
        · next ha =>
          have hremoved := tsLaw_removePeer h hf (by simpa using ha)
          refine TsLaw.answered ?_ _ _
          split
          · refine tsLaw_reevaluate ?_
            exact hremoved.of_blocks rfl rfl rfl rfl
          · exact hremoved
  | queryPeer | join | leave | setAddress =>
    exact h.of_blocks (by simp [commandBody]) (by simp [commandBody]) (by simp [commandBody]) (by simp [commandBody])
  | goOnline => exact tsLaw_goOnlineBody h
  | goListen => exact tsLaw_goListenBody h
  | goLoop =>
    simp only [commandBody, goLoopBody]
    split
    · refine (tsLaw_reevaluate ?_).answered _ _
      exact h.of_blocks rfl rfl rfl rfl
    · exact h.answered _ _
  | goOffline => exact tsLaw_goOfflineBody hst h
  | clear => exact tsLaw_of_nothing rfl rfl rfl
  | clearCounters => exact h.of_blocks rfl rfl rfl rfl

end Sys2Proof.Machine
end

section
/-! SUPPORT. The station that sends has its address (R164), and a READY frame is driven for a committed notice (R131):
kept by every row, and with TS's part the law of the offer by every step. -/

namespace Sys2Proof.Machine

open Sys2Proof

/-! ### The address -/

theorem AddressLaw.of_sc {s t : State} (h : AddressLaw s) (hsc : t.sc = s.sc) : AddressLaw t := by
  unfold AddressLaw
  rw [hsc]
  exact h

theorem addressLaw_of_not_sends {s : State} (h : s.sc.station.sends = false) : AddressLaw s := fun hs => by
  simp [h] at hs

theorem addressLaw_commandBody {s : State} (h : AddressLaw s) (c : HostCommand) : AddressLaw (commandBody c s) := by
  cases c with
  | goOnline =>
    simp only [commandBody, goOnlineBody]
    split
    · exact h.of_sc rfl
    · next a ha => exact fun _ => by simp [answerBare, ha]
  | goListen =>
    simp only [commandBody, goListenBody]
    split
    all_goals exact addressLaw_of_not_sends (by simp [answerBare, *, Station.sends, enterRunning, leaveLine])
  | goLoop =>
    simp only [commandBody, goLoopBody]
    split
    · next a _ ha => exact fun _ => by simp [answerBare, ha]
    · exact h.of_sc rfl
  | goOffline =>
    simp only [commandBody, goOfflineBody]
    split
    all_goals
      exact addressLaw_of_not_sends (by simp [answerBare, discardNotice, *, Station.sends, stopHearing, leaveLine])
  | setAddress =>
    simp only [commandBody, setAddressBody]
    split
    · exact h.of_sc rfl
    · split
      · next hs => exact addressLaw_of_not_sends (by simp [answerBare, hs, Station.sends])
      · exact h.of_sc rfl
  | clear => exact addressLaw_of_not_sends rfl
  | _ => exact h.of_sc (by simp [commandBody])

/-! ### The driven notice -/

/-- LAC drives nothing that it did not drive, and the notice stands committed or pending as it did. -/
structure SameDrive (s t : State) : Prop where
  drives : t.lac.mode.drives = true → s.lac.mode.drives = true
  source : ∀ b, t.lac.burst = some b → b.source = .notice → ∃ b', s.lac.burst = some b' ∧ b'.source = .notice
  committed : noticeCommitted t = noticeCommitted s

theorem DriveLaw.of_sameDrive {s t : State} (h : DriveLaw s) (hs : SameDrive s t) : DriveLaw t := by
  intro b hb hn hd
  obtain ⟨b', hb', hn'⟩ := hs.source b hb hn
  rw [hs.committed]
  exact h b' hb' hn' (hs.drives hd)

theorem driveLaw_of_still {s : State} (h : s.lac.mode.drives = false) : DriveLaw s := fun _ _ _ hd => by
  simp [h] at hd

theorem driveLaw_of_no_burst {s : State} (h : s.lac.burst = none) : DriveLaw s := fun b hb => by simp [h] at hb

theorem SameDrive.of_lac {s t : State} (hmode : t.lac.mode = s.lac.mode) (hburst : t.lac.burst = s.lac.burst)
    (hcommitted : noticeCommitted t = noticeCommitted s) : SameDrive s t :=
  ⟨by rw [hmode]; exact id, fun b hb hn => ⟨b, by rw [← hburst]; exact hb, hn⟩, hcommitted⟩

theorem SameDrive.trans {s u t : State} (h : SameDrive s u) (k : SameDrive u t) : SameDrive s t :=
  ⟨h.drives ∘ k.drives, fun b hb hn => by
    obtain ⟨b', hb', hn'⟩ := k.source b hb hn
    exact h.source b' hb' hn', k.committed.trans h.committed⟩

theorem SameLine.sameDrive {s t : State} (h : SameLine s t) : SameDrive s t :=
  .of_lac h.mode h.burst (noticeCommitted_congr h.notice)

theorem noticeCommitted_buildNotice (s : State) : noticeCommitted (buildNotice s) = noticeCommitted s := by
  unfold buildNotice
  split
  · rfl
  · dsimp only
    rw [noticeCommitted_congr (congrArg Rq.notice (reevaluate_keeps _).2.2.1)]
    cases hn : s.rq.notice with
    | none => simp [noticeCommitted, hn]
    | some n => simp [noticeCommitted, hn, Notice.add_committed]

theorem noticeCommitted_testExit (s : State) : noticeCommitted (testExit s) = noticeCommitted s := by
  unfold testExit leaveCongestion
  split
  · dsimp only
    split
    · rfl
    · rw [noticeCommitted_buildNotice]; rfl
  · rfl

theorem sameDrive_testExit (s : State) : SameDrive s (testExit s) :=
  .of_lac (by simp) (by simp) (noticeCommitted_testExit s)

theorem sameDrive_testMarks (s : State) : SameDrive s (testMarks s) := by
  unfold testMarks
  split
  · exact sameDrive_testExit s
  · exact .of_lac (by simp) (by simp) (noticeCommitted_congr (by simp))

theorem sameDrive_endReception (how : Ending) (s : State) : SameDrive s (endReception how s) := by
  have hover : SameDrive s (leaveReceive (afterEnding how s)) := by
    refine ⟨?_, fun b hb hn => ⟨b, by simpa using hb, hn⟩, noticeCommitted_congr (by simp)⟩
    unfold leaveReceive
    split
    · simp [LacMode.drives]
    · exact id
  exact endReception_stages (P := SameDrive s) (.of_lac rfl rfl rfl) hover
    (fun _ _ hu => hu.trans (.of_lac (by simp) (by simp) (noticeCommitted_congr (by simp))))
    (fun _ _ hu => hu.trans (.of_lac (by simp) (by simp) (noticeCommitted_congr (by simp))))
    (fun _ _ _ hu => hu.trans (.of_lac (by simp) (by simp) (noticeCommitted_congr (by simp))))
    fun _ hu => hu.trans (.of_lac (by simp) (by simp) (noticeCommitted_congr (by simp)))

theorem sameDrive_closeAtDeadline (s : State) : SameDrive s (closeAtDeadline s) := by
  unfold closeAtDeadline
  split
  · exact .of_lac rfl rfl rfl
  · exact .of_lac (by simp) (by simp) (noticeCommitted_congr (by simp))

theorem sameDrive_takeMarks (s : State) : SameDrive s (takeMarks s) :=
  takeMarks_stages (P := SameDrive s) (.of_lac rfl rfl rfl) (fun _ _ hu => hu.trans (.of_lac rfl rfl rfl))
    (fun _ hu _ => hu.trans (sameDrive_endReception _ _)) (fun _ hu _ => hu.trans (sameDrive_closeAtDeadline _))
    fun _ hu => hu.trans (.of_lac rfl rfl rfl)

theorem sameDrive_of_heard {s t : State} (h : Heard s t) : SameDrive s t := by
  have moved : ∀ {u}, ReceiverMoved s u → SameDrive s u := fun {u} hu =>
    .of_lac hu.1.mode hu.1.burst (noticeCommitted_congr hu.1.notice)
  cases h with
  | on hu => exact moved hu
  | ended how hu => exact (moved hu).trans (sameDrive_endReception how _)

theorem sameDrive_takeStartBit (s : State) : SameDrive s (takeStartBit s) := by
  unfold takeStartBit
  split
  · split
    · exact .of_lac (by simp [takeStray]) (by simp) (noticeCommitted_congr (by simp))
    · exact ⟨by simp [takeStart, LacMode.drives], fun b hb hn => ⟨b, by simpa using hb, hn⟩,
        noticeCommitted_congr (by simp)⟩
  all_goals exact .of_lac rfl rfl rfl

theorem driveLaw_leaveLine (target : Station) (s : State) : DriveLaw (leaveLine target s) :=
  driveLaw_of_no_burst rfl

/-- A frame cut by ABORT is driven no more. -/
theorem sameDrive_cutByAbort (s : State) : SameDrive s (cutByAbort s) := by
  have hstopped : SameDrive s (stopBurst .quiet { s with lac := { s.lac with path := [] } }) :=
    ⟨by simp [LacMode.drives], by simp, rfl⟩
  unfold cutByAbort
  dsimp only
  split
  · exact .of_lac rfl rfl rfl
  · split
    · exact (hstopped.trans (sameDrive_endReception _ _)).trans (.of_lac rfl rfl rfl)
    · exact hstopped.trans (.of_lac (by simp) (by simp) (noticeCommitted_congr (by simp)))

theorem sameDrive_dequeue (c : Sys2Proof.Class) (n : SlotId) (s : State) : SameDrive s (dequeue c n s) := by
  refine ⟨id, fun b hb hn => ?_, rfl⟩
  obtain ⟨b', hb', rfl⟩ := Option.map_eq_some_iff.mp hb
  refine ⟨b', hb', ?_⟩
  cases hsrc : b'.source <;> simp [hsrc, BurstSource.forgetAhead] at hn ⊢

theorem sameDrive_abortSlot (n : SlotId) (sl : Slot) (s : State) : SameDrive s (abortSlot n sl s) := by
  unfold abortSlot
  split
  · exact .of_lac (by simp [answerBare]) (by simp [answerBare]) (noticeCommitted_congr (by simp [answerBare]))
  · exact (sameDrive_dequeue sl.cls n s).trans
      (.of_lac (by simp [answerBare]) (by simp [answerBare]) (noticeCommitted_congr (by simp [answerBare])))
  · exact (sameDrive_dequeue sl.cls n s).trans
      (.of_lac (by simp [answerBare]) (by simp [answerBare]; rfl) (noticeCommitted_congr (by simp [answerBare])))
  · exact (sameDrive_cutByAbort s).trans
      (.of_lac (by simp [answerBare]) (by simp [answerBare]) (noticeCommitted_congr (by simp [answerBare])))
  · exact .of_lac rfl rfl rfl
  · exact .of_lac rfl rfl rfl

theorem sameDrive_reevaluate (s : State) : SameDrive s (reevaluate s) :=
  .of_lac (by simp) (by simp) (noticeCommitted_congr (by simp))

theorem DriveLaw.answered {s : State} (h : DriveLaw s) (c : Cst) (r : Quad) : DriveLaw (answer c r s) :=
  h.of_sameDrive (.of_lac rfl rfl rfl)

theorem driveLaw_goOnlineBody {s : State} (h : DriveLaw s) : DriveLaw (goOnlineBody s) := by
  unfold goOnlineBody
  split
  · exact h.answered _ _
  · refine DriveLaw.answered (DriveLaw.of_sameDrive ?_ (sameDrive_reevaluate _)) _ _
    unfold goOnlineChange
    split
    · exact driveLaw_of_still rfl
    · exact h.of_sameDrive (.of_lac rfl rfl rfl)
    · exact h.of_sameDrive (.of_lac rfl rfl rfl)
    · exact h.of_sameDrive (.of_lac rfl rfl rfl)
    · exact driveLaw_leaveLine _ _

theorem driveLaw_goListenBody {s : State} (h : DriveLaw s) : DriveLaw (goListenBody s) := by
  unfold goListenBody
  refine DriveLaw.answered ?_ _ _
  split
  · exact driveLaw_of_still rfl
  · exact h
  · exact h.of_sameDrive (.of_lac rfl rfl rfl)
  · exact driveLaw_leaveLine _ _
  · exact driveLaw_leaveLine _ _

/-- LAC stands still in OFFLINE, whatever becomes of the notice there (R131). -/
theorem driveLaw_goOfflineBody {s : State} (hst : StationLaw s) : DriveLaw (goOfflineBody s) := by
  unfold goOfflineBody
  refine DriveLaw.answered ?_ _ _
  split
  · next hs => exact driveLaw_of_still (hst.idle (by rw [hs]; rfl)).1
  · exact driveLaw_of_still (by simp [discardNotice, stopHearing, LacMode.drives])
  · exact driveLaw_of_still (by simp [discardNotice, stopHearing, LacMode.drives])
  · exact driveLaw_of_no_burst rfl
  · exact driveLaw_of_no_burst rfl

theorem noticeCommitted_releaseBody (s : State) : noticeCommitted (releaseBody s) = noticeCommitted s := by
  unfold releaseBody
  split
  · rfl
  · exact (noticeCommitted_testExit _).trans (noticeCommitted_congr (by simp [restartStale]))

theorem noticeCommitted_flushBody (s : State) : noticeCommitted (flushBody s) = noticeCommitted s := by
  refine (noticeCommitted_testExit _).trans (noticeCommitted_congr ?_)
  split <;> simp

theorem noticeCommitted_resumeBody (s : State) : noticeCommitted (resumeBody s) = noticeCommitted s := by
  change noticeCommitted (if _ then _ else _) = _
  split
  · exact noticeCommitted_buildNotice _
  · rfl

theorem driveLaw_commandBody {s : State} (hst : StationLaw s) (h : DriveLaw s) (c : HostCommand) :
    DriveLaw (commandBody c s) := by
  cases c with
  | abort =>
    simp only [commandBody, abortBody]
    split
    · exact h.answered _ _
    · split
      · exact h.answered _ _
      · exact h.of_sameDrive (sameDrive_abortSlot _ _ s)
  | release =>
    exact h.of_sameDrive (.of_lac (by simp [commandBody]) (by simp [commandBody]) (noticeCommitted_releaseBody s))
  | flush =>
    exact h.of_sameDrive (.of_lac (by simp [commandBody]) (by simp [commandBody]) (noticeCommitted_flushBody s))
  | resume =>
    exact h.of_sameDrive (.of_lac (by simp [commandBody]) (by simp [commandBody]) (noticeCommitted_resumeBody s))
  | pause => exact h.of_sameDrive (.of_lac rfl rfl rfl)
  | goOnline => exact driveLaw_goOnlineBody h
  | goListen => exact driveLaw_goListenBody h
  | goLoop =>
    simp only [commandBody, goLoopBody]
    split
    · exact (DriveLaw.of_sameDrive (driveLaw_of_still rfl) (sameDrive_reevaluate _)).answered _ _
    · exact h.answered _ _
  | goOffline => exact driveLaw_goOfflineBody hst
  | clear => exact driveLaw_of_no_burst rfl
  | _ =>
    exact h.of_sameDrive (.of_lac (by simp [commandBody]) (by simp [commandBody])
      (noticeCommitted_congr (by simp [commandBody])))

/-! ### Every step -/

theorem OfferLaw.of_sameLine {s t : State} (h : OfferLaw s) (hs : SameLine s t) : OfferLaw t := by
  obtain ⟨hts, haddress, hdrive⟩ := offerLaw_iff.mp h
  refine offerLaw_iff.mpr ⟨hts.of_sameLine hs, ?_, hdrive.of_sameDrive hs.sameDrive⟩
  unfold AddressLaw
  rw [hs.station, hs.address]
  exact haddress

/-- A row that leaves the station, drives nothing new and keeps TS's part of the law keeps the law. -/
theorem offerLaw_of_parts {s t : State} (h : OfferLaw s) (hts : TsLaw s → TsLaw t) (hsc : t.sc = s.sc)
    (hdrive : DriveLaw s → DriveLaw t) : OfferLaw t := by
  obtain ⟨h1, h2, h3⟩ := offerLaw_iff.mp h
  exact offerLaw_iff.mpr ⟨hts h1, h2.of_sc hsc, hdrive h3⟩

theorem offerLaw_commandBody {s : State} (hst : StationLaw s) (h : OfferLaw s) (c : HostCommand) :
    OfferLaw (commandBody c s) := by
  obtain ⟨hts, haddress, hdrive⟩ := offerLaw_iff.mp h
  exact offerLaw_iff.mpr
    ⟨tsLaw_commandBody hst hts c, addressLaw_commandBody haddress c, driveLaw_commandBody hst hdrive c⟩

theorem offerLaw_hostSide {s t : State} (hst : StationLaw s) (h : OfferLaw s) (ht : HostSide s t) : OfferLaw t := by
  cases ht with
  | same hu => exact h.of_sameLine hu
  | command c hu => exact offerLaw_commandBody (hst.of_sameLine hu) (h.of_sameLine hu) c
  | marks hu =>
    exact offerLaw_of_parts (h.of_sameLine hu) tsLaw_testMarks (by simp)
      fun hd => hd.of_sameDrive (sameDrive_testMarks _)

theorem offerLaw_of_reset {s : State} (hlac : s.lac = .reset) (hts : s.ts = .reset) (hsc : s.sc = .reset)
    (hpt : s.pt = []) : OfferLaw s :=
  offerLaw_iff.mpr ⟨tsLaw_of_nothing (by rw [hts]) hlac hpt, addressLaw_of_not_sends (by rw [hsc]; rfl),
    driveLaw_of_no_burst (by rw [hlac]; rfl)⟩

theorem offerLaw_lineEvent {holds : Bool} {f : State → State} {s t : State} (h : OfferLaw s)
    (ht : lineEvent holds f s = .next t) (hts : TsLaw s → TsLaw (f s)) (hsc : (f s).sc = s.sc)
    (hdrive : SameDrive s (f s)) : OfferLaw t := by
  rcases lineEvent_cases ht with rfl | ⟨_, hc, rfl⟩
  · exact h
  · exact offerLaw_of_parts h hts hsc fun hd => hd.of_sameDrive hdrive

theorem heard_station {s t : State} (h : Heard s t) : t.sc.station = s.sc.station ∧ t.sc.address = s.sc.address := by
  cases h with
  | on hu => exact ⟨hu.1.station, hu.1.address⟩
  | ended how hu => simpa using And.intro hu.1.station hu.1.address

theorem offerLaw_characterReceived {s t : State} {v : Byte} {stop : LineBit} (hst : StationLaw s) (h : OfferLaw s)
    (ht : exec (.characterReceived v stop) s = .next t) : OfferLaw t := by
  rcases exec_characterReceived_cases ht with rfl | ⟨hrun, u, hu, hc⟩
  · exact h
  · have hu' : OfferLaw u ∧ u.fr.mode ≠ .off := by
      rcases hu with hs | rfl
      · exact ⟨h.of_sameLine hs, by rw [hs.receiver]; exact hst.receiver_runs hrun⟩
      · exact ⟨offerLaw_of_parts h tsLaw_takeMarks (takeMarks_station s)
            fun hd => hd.of_sameDrive (sameDrive_takeMarks s),
          (stationLaw_takeMarks hst).receiver_runs (by rw [takeMarks_station]; exact hrun)⟩
    obtain ⟨hlaw, hfr⟩ := hu'
    rcases hc with ⟨c, st, x, hx⟩ | ⟨q, rfl⟩
    · obtain ⟨h1, h2, h3⟩ := offerLaw_iff.mp hlaw
      have hheard := heard_takeCharacter hfr hx
      refine offerLaw_iff.mpr ⟨h1.of_heard hheard, ?_, h3.of_sameDrive (sameDrive_of_heard hheard)⟩
      unfold AddressLaw
      rw [(heard_station hheard).1, (heard_station hheard).2]
      exact h2
    · exact offerLaw_of_parts hlaw (fun hts => hts.of_blocks rfl rfl rfl rfl) rfl
        fun hd => hd.of_sameDrive (.of_lac rfl rfl rfl)

/-- The frame of a committed offer is a notice's only where the notice is committed (R130). -/
theorem driveLaw_commitOffer {s : State} {o : Offer} {chars : List Byte} (hts : TsLaw s) (ho : s.lac.offer = some o)
    (hm : s.lac.mode.drives = false) : DriveLaw (commitOffer o chars s) := by
  unfold commitOffer
  cases o with
  | notice =>
    intro b _ _ _
    cases hts with
    | notice _ _ hn _ =>
      obtain ⟨nt, hnt⟩ := Option.ne_none_iff_exists'.mp hn
      simp [noticeCommitted, hnt]
    | resting _ ho' | underway _ _ _ _ ho' | offered _ _ _ _ ho' => simp [ho] at ho'
  | slot n =>
    dsimp only
    split
    · exact driveLaw_of_still hm
    · intro b hb hn
      simp only [startBurst, Option.some.injEq] at hb
      subst hb
      cases hn

theorem offerLaw_leadStart {s t : State} (h : OfferLaw s) (ht : exec .leadStart s = .next t) : OfferLaw t := by
  rcases exec_leadStart_cases ht with rfl | ⟨o, chars, ho, hl, _, rfl⟩
  · exact h
  · refine offerLaw_of_parts h (fun hts => tsLaw_leadStart hts ht) (by simp) fun _ => ?_
    simp only [mayLead, Bool.and_eq_true, beq_iff_eq] at hl
    obtain ⟨hts, _, _⟩ := offerLaw_iff.mp h
    exact driveLaw_commitOffer (hts.of_blocks (by simp) (by simp) (by simp) (by simp)) (by simpa using ho)
      (by simp [hl.1.1.2, LacMode.drives])

/-- A frame that LAC drives for the notice is driven for a committed one. -/
theorem DriveLaw.committed {s : State} {b : Burst} (h : DriveLaw s) (hb : s.lac.burst = some b)
    (hd : s.lac.mode.drives = true) (hn : b.source = .notice) : noticeCommitted s = true := h b hb hn hd

/-- After an echo fault LAC holds no frame (R33, R43). -/
theorem takeEchoFault_burst (b : Burst) (k : Nat) (s : State) : (takeEchoFault b k s).lac.burst = none := by
  have hcut : ∀ u : State, u.lac.burst = none → (applyFaultLimit u).lac.burst = none := by
    intro u hu
    unfold applyFaultLimit
    split
    · rfl
    · exact hu
  unfold takeEchoFault
  simp only [reevaluate_keeps]
  exact hcut _ (by simp)

theorem offerLaw_exec {i : Instr} {s t : State} (hst : StationLaw s) (h : OfferLaw s) (ht : exec i s = .next t) :
    OfferLaw t := by
  by_cases hi : movesLine i = true
  case neg => exact offerLaw_hostSide hst h (exec_hostSide (by simpa using hi) ht)
  obtain ⟨hts, haddress, hdrive⟩ := offerLaw_iff.mp h
  cases i with
  | resetAsserted | resetReleased | powerUp => cases ht; exact offerLaw_of_reset rfl rfl rfl rfl
  | startBit =>
    rw [exec, execStartBit] at ht
    exact offerLaw_lineEvent h ht (fun hs => tsLaw_takeStartBit (tsLaw_takeMarks hs))
      (by simp [takeMarks_station]) ((sameDrive_takeMarks s).trans (sameDrive_takeStartBit _))
  | characterReceived v stop => exact offerLaw_characterReceived hst h ht
  | gapGuardClear | gapLimitRecover =>
    exact offerLaw_lineEvent h ht (fun hs => hs.of_blocks rfl rfl rfl rfl) rfl (.of_lac rfl rfl rfl)
  | gapLimitTruncation =>
    rw [exec, execGapLimitTruncation] at ht
    refine offerLaw_lineEvent h ht (fun hs => tsLaw_endReception ?_ _) (by simp) ?_
    · exact hs.of_blocks rfl rfl rfl rfl
    · exact SameDrive.trans (u := reachQuiet Config.gapLimit s) (.of_lac rfl rfl rfl) (sameDrive_endReception _ _)
  | demotionClear c =>
    rw [exec, execDemotionClear] at ht
    exact offerLaw_lineEvent h ht (fun hs => hs.of_blocks rfl rfl rfl rfl) rfl (.of_lac rfl rfl rfl)
  | leadStart => exact offerLaw_leadStart h ht
  | contentionLost k =>
    rcases exec_contentionLost_cases ht with rfl | ⟨b, hb, hm, _, rfl⟩
    · exact h
    · exact offerLaw_of_parts h (fun hs => tsLaw_loseLead hs k (hdrive.committed hb (by rw [hm]; rfl))) (by simp)
        fun _ => driveLaw_of_no_burst (by simp [loseLead])
  | leadWon =>
    rcases exec_leadWon_cases ht with rfl | ⟨b, hb, hm, rfl⟩
    · exact h
    · refine offerLaw_of_parts h (fun hs => hs.of_blocks rfl rfl rfl rfl) rfl fun hd => hd.of_sameDrive ?_
      refine ⟨fun _ => by rw [hm]; rfl, fun b' hb' hn => ⟨b, hb, ?_⟩, rfl⟩
      simp only [leadWon, Option.some.injEq] at hb'
      subst hb'
      exact hn
  | echoFault k =>
    rcases exec_echoFault_cases ht with rfl | ⟨b, _, hs, _, rfl⟩
    · exact h
    · exact offerLaw_iff.mpr ⟨tsLaw_takeEchoFault hts b k,
        fun _ => by simpa using haddress (by rw [hs]; rfl), driveLaw_of_no_burst (takeEchoFault_burst b k s)⟩
  | frameSent =>
    rcases exec_frameSent_cases ht with rfl | ⟨b, hb, hm, rfl⟩
    · exact h
    · refine offerLaw_of_parts h (fun hs => tsLaw_reevaluate (tsLaw_reportSent (tsLaw_frameEnd hs b) fun hn => ?_))
        (by simp) fun _ => driveLaw_of_no_burst (by simp [takeFrameEnd])
      rw [noticeCommitted_congr (s := s) (by simp)]
      exact hdrive.committed hb (by rw [hm]; rfl) hn
  | responseStart =>
    refine offerLaw_of_parts h (fun hs => tsLaw_responseStart hs ht) ?_ fun hd => ?_
    all_goals rcases exec_responseStart_cases ht with rfl | ⟨chars, u, _, _, rfl, rfl⟩
    · rfl
    · simp [takeMarks_station]
    · exact hd
    · intro b hb hn
      simp only [startBurst, Option.some.injEq] at hb
      subst hb
      cases hn
  | responseSent =>
    rcases exec_responseSent_cases ht with rfl | ⟨b, _, _, rfl⟩
    · exact h
    · exact offerLaw_of_parts h (fun hs => tsLaw_reevaluate (tsLaw_frameEnd hs b)) (by simp)
        fun _ => driveLaw_of_no_burst (by simp [takeFrameEnd])
  | noResponse =>
    rcases exec_noResponse_cases ht with rfl | ⟨_, rfl⟩
    · exact h
    · refine offerLaw_of_parts h (fun hs => tsLaw_closeAtDeadline ?_) ?_ fun hd => hd.of_sameDrive ?_
      · exact hs.of_blocks rfl rfl rfl rfl
      · unfold closeAtDeadline; split <;> simp
      · exact SameDrive.trans (u := reachQuiet Config.responseDeadline s) (.of_lac rfl rfl rfl)
          (sameDrive_closeAtDeadline _)
  | holdoffExpiry node =>
    exact offerLaw_lineEvent h ht (fun hs => tsLaw_releasePeer hs node) (by simp)
      (.of_lac (by simp) (by simp) (noticeCommitted_congr (by simp)))
  | dominantBitInRecover =>
    rw [exec, execDominantBitInRecover] at ht
    refine offerLaw_lineEvent h ht (fun hs => ?_) (by simp [takeMarks_station])
      ((sameDrive_takeMarks s).trans (.of_lac rfl rfl rfl))
    exact (tsLaw_takeMarks hs).of_blocks rfl rfl rfl rfl
  | _ => simp [movesLine] at hi

/-- A bit-time on the line moves the quiet count and the bits driven alone. -/
theorem offerLaw_tickLine {s : State} (h : OfferLaw s) : OfferLaw (tickLine s) := by
  unfold tickLine
  split
  · next b hb =>
    refine offerLaw_of_parts h (fun hs => hs.of_blocks rfl rfl rfl rfl) rfl fun hd => hd.of_sameDrive ?_
    refine ⟨id, fun b' hb' hn => ⟨b, hb, ?_⟩, rfl⟩
    simp only [tickBurst, Option.some.injEq] at hb'
    subst hb'
    exact hn
  · split
    · exact h.of_sameLine (by constructor <;> rfl)
    · exact h

theorem offerLaw_tickTimers {s : State} (h : OfferLaw s) : OfferLaw (tickTimers s) :=
  offerLaw_of_parts h
    (fun hs => hs.of_peers rfl rfl rfl fun _ hd => hd.map (f := Peer.tick) (fun _ => rfl) fun _ => rfl) rfl
    fun hd => hd.of_sameDrive (.of_lac rfl rfl rfl)

theorem offerLaw_idle {s : State} (h : OfferLaw s) : OfferLaw (idle s) := by
  unfold idle
  split
  · unfold bitTime
    split
    · exact h
    · exact (offerLaw_tickLine (offerLaw_tickTimers h)).of_sameLine (by constructor <;> rfl)
  · exact h.of_sameLine (by constructor <;> rfl)

theorem offerLaw_step {s t : State} (hst : StationLaw s) (h : OfferLaw s) (ht : step s = .next t) : OfferLaw t := by
  unfold step at ht
  split at ht
  · cases ht; exact offerLaw_idle h
  · next c rest _ =>
    have hs : SameLine s { s with pending := rest } := by constructor <;> rfl
    exact offerLaw_exec (hst.of_sameLine hs) (h.of_sameLine hs) ht

/-- Settles O12: each shared operation keeps the station in line with LAC and FR, and leaves TS at rest, with a notice
or a slot offered, or with one attempt under way; so every row of the table does. -/
theorem stationStateRulesTheLine : Obligations.StationStateRulesTheLine :=
  ⟨fun _ _ => stationLaw_step, fun _ _ => offerLaw_step⟩

end Sys2Proof.Machine
end

section
/-! SUPPORT. LEAD_START (R26, R31, R76): the count and the marks that it brings, the frame that it forms, and the
commitment. -/

namespace Sys2Proof.Machine

open Sys2Proof

/-! ### The mark of the lead -/

theorem threshold_eq (s : State) (c : Sys2Proof.Class) :
    threshold s c = 12 + 2 * c.toNat + if s.lac.demoted.get c then 1 else 0 := by
  unfold threshold Config.demotedThreshold Config.baseThreshold
  split <;> rfl

/-- From a count of 11 on FR is in HUNT with its guard clear (R95, R96). -/
theorem Fr.atQuiet_of_gapLimit {q : Nat} {fr : Fr} (hm : fr.mode = .hunt ∨ fr.mode = .recover) (hq : 11 ≤ q) :
    fr.atQuiet q = { fr with mode := .hunt, guard := false } := by
  obtain ⟨mode, guard, record, groups⟩ := fr
  rcases hm with rfl | rfl
  · exact if_pos (show q ≥ Config.responseGap by simp only [Config.responseGap]; omega)
  · exact if_pos hq

/-- The state in which a lead begins at a count of `q`: the demotion flags whose mark is reached are normal, FR is in
HUNT, and in LOOP it takes the start bit (R24, R95, R96, R113). -/
def leadBegun (q : Nat) (s : State) : State :=
  { s with
    lac := { s.lac with
      quiet := q
      demoted := s.lac.demoted.mapWith fun c d => d && decide (q < 13 + 2 * c.toNat) }
    fr := if s.sc.station = .loop then
        { s.fr with mode := .header, guard := false, record := some Rx.empty }
      else { s.fr with mode := .hunt, guard := false } }

/-- FR in HUNT takes the start bit of LOOP (R113, R39). -/
theorem ownStartBit_of_loop {s : State} (hst : s.sc.station = .loop) (hm : s.fr.mode = .hunt) :
    ownStartBit s = { s with
      lac := { s.lac with window := none }
      fr := { s.fr with
        mode := .header, guard := false, record := some { Rx.empty with candidate := s.lac.window.isSome } } } := by
  simp [ownStartBit, hst, hm, openRecord]

theorem ownStartBit_of_not_loop {s : State} (hst : s.sc.station ≠ .loop) : ownStartBit s = s := by
  simp [ownStartBit, hst]

theorem leadBegun_eq {s : State} {n : Nat} (hm : s.fr.mode = .hunt ∨ s.fr.mode = .recover) (hn : 12 ≤ n)
    (hw : s.lac.window = none) :
    ownStartBit (clearReachedDemotions (reachQuiet n s)) = leadBegun (max s.lac.quiet n) s := by
  have hfr : s.fr.atQuiet (max s.lac.quiet n) = { s.fr with mode := .hunt, guard := false } :=
    Fr.atQuiet_of_gapLimit hm (by omega)
  have hreached : clearReachedDemotions (reachQuiet n s) = { s with
      lac := { s.lac with
        quiet := max s.lac.quiet n
        demoted := s.lac.demoted.mapWith fun c d => d && decide (max s.lac.quiet n < 13 + 2 * c.toNat) }
      fr := { s.fr with mode := .hunt, guard := false } } := by
    simp only [clearReachedDemotions, reachQuiet, hfr, demotedThreshold_eq]
  rw [hreached]
  by_cases hst : s.sc.station = .loop
  · refine (ownStartBit_of_loop (by exact hst) rfl).trans ?_
    simp only [leadBegun, hst, hw, if_true, Option.isSome_none]
    rfl
  · refine (ownStartBit_of_not_loop (by exact hst)).trans ?_
    simp [leadBegun, hst]

/-- LEAD_START of an offer whose frame can be formed. -/
theorem exec_leadStart_of_frame {s : State} {o : Offer} {chars : List Byte} (hlow : s.resetLow = false)
    (ho : s.lac.offer = some o) (hl : mayLead s = true) (hf : offerFrame s o = .ok chars)
    (hm : s.fr.mode = .hunt ∨ s.fr.mode = .recover) (hw : s.lac.window = none) :
    exec .leadStart s = .next (commitOffer o chars
      (leadBegun (max s.lac.quiet (threshold s (offerClass s o))) s)) := by
  have hn : 12 ≤ threshold s (offerClass s o) := by rw [threshold_eq]; omega
  rw [← leadBegun_eq hm hn hw]
  simp [exec, execLeadStart, ho, hlow, hl, hf]

/-! ### The frame -/

theorem controlChar_data (seq resync : Bool) :
    controlChar .data seq resync = byteOf (16 + (if resync then 2 else 0) + (if seq then 1 else 0)) := by
  cases seq <;> cases resync <;> rfl

/-- The frame of an offered DATAGRAM (R31). -/
theorem offerFrame_datagram {s : State} {n : SlotId} {sl : Slot} {src : Nat} {payload : List Byte}
    (ha : s.sc.address = some src) (hs : slotAt s n = some sl) (hp : sl.phase = .offered)
    (hm : messageBytes s sl.chain sl.length = some payload) (hk : sl.kind = .datagram) :
    offerFrame s (.slot n) = .ok (withCheck
      ([byteOf (64 * sl.cls.toNat + src), 0x20, byteOf sl.dest, byteOf sl.length] ++ payload)) := by
  have hctl : controlChar .datagram false false = 0x20 := rfl
  simp [offerFrame, ha, slotWhen_of hs hp, slotFrame, hm, hk, messageChars, hctl, leadChar]

/-- The frame of an offered DATA slot carries the SEQ and RESYNC of its peer entry (R31, R148). -/
theorem offerFrame_data {s : State} {n : SlotId} {sl : Slot} {src : Nat} {payload : List Byte} {p : Peer}
    (ha : s.sc.address = some src) (hs : slotAt s n = some sl) (hp : sl.phase = .offered)
    (hm : messageBytes s sl.chain sl.length = some payload) (hk : sl.kind = .data)
    (hpeer : findPeer s.pt sl.dest = some p) :
    offerFrame s (.slot n) = .ok (withCheck
      ([byteOf (64 * sl.cls.toNat + src),
        byteOf (16 + (if p.synced then 0 else 2) + (if p.txSeq then 1 else 0)), byteOf sl.dest, byteOf sl.length]
        ++ payload)) := by
  have hctl : controlChar .data p.txSeq (!p.synced)
      = byteOf (16 + (if p.synced then 0 else 2) + (if p.txSeq then 1 else 0)) := by
    rw [controlChar_data]
    cases p.synced <;> rfl
  simp [offerFrame, ha, slotWhen_of hs hp, slotFrame, hm, hk, hpeer, peerSequence, messageChars, hctl, leadChar]

/-- The READY frame names the notice's contents, no address for all (R31, R130). -/
theorem offerFrame_notice {s : State} {src : Nat} {notice : Notice} (ha : s.sc.address = some src)
    (hn : s.rq.notice = some notice) (nodes : List Nat)
    (hnodes : nodes = match notice.contents with | .all => [] | .list l => l) :
    offerFrame s .notice = .ok (withCheck
      ([byteOf (64 + src), 0x50, 63, byteOf nodes.length] ++ nodes.map byteOf)) := by
  have hctl : controlChar .ready false false = 0x50 := rfl
  have hdest : byteOf Config.broadcast = 63 := rfl
  have hlead : leadChar .control src = byteOf (64 + src) := rfl
  obtain ⟨contents, _, _⟩ := notice
  cases contents with
  | all => simp [offerFrame, ha, hn, readyChars, hctl, hdest, hlead, hnodes]
  | list l => simp [offerFrame, ha, hn, readyChars, hctl, hdest, hlead, hnodes]

/-! ### The commitment -/

/-- The slot leaves its class queue for SENDING, its frame carries the SEQ of its peer entry, and the slots ahead of
it are noted with the frame (R70, R76). -/
theorem commitOffer_slot {u : State} {n : SlotId} {sl : Slot} (chars : List Byte) (hs : slotAt u n = some sl)
    (hp : sl.phase = .offered) :
    commitOffer (.slot n) chars u = { u with
      lac := { u.lac with
        mode := .contend
        offer := none
        burst := some
          { source := .slot n ((u.ts.queues.get sl.cls).takeWhile fun m => m ≠ n), chars := chars, bits := 0 }
        path := if u.sc.station = .loop then chars else [] }
      ts := { u.ts with
        slots := u.ts.slots.set n (some { sl with phase := .sending, sentSeq := slotSeq u sl })
        queues := u.ts.queues.set sl.cls ((u.ts.queues.get sl.cls).filter fun m => m ≠ n) } } := by
  simp only [commitOffer, slotWhen_of hs hp]
  rfl

theorem commitOffer_notice {u : State} {notice : Notice} (chars : List Byte) (hn : u.rq.notice = some notice) :
    commitOffer .notice chars u = { u with
      lac := { u.lac with
        mode := .contend
        offer := none
        burst := some { source := .notice, chars := chars, bits := 0 }
        path := if u.sc.station = .loop then chars else [] }
      rq := { u.rq with notice := some { notice with committed := true } } } := by
  simp only [commitOffer, startBurst, hn, Option.map_some]

/-- Settles O52: the state in which the lead begins, the frame of each offer and its commitment, put together. -/
theorem leadStartCommitsTheSlot : Obligations.LeadStartCommitsTheSlot := by
  intro s u src q offer cls chars source hlow hst haddr hmode horder hwindow hfr hoffer hq hu
  have hlead : mayLead s = true := by
    rcases hst with hst | hst <;> simp [mayLead, hst, hmode, horder, hwindow, Station.sends]
  have hbegin : ∀ {f}, offerFrame s offer = .ok f → offerClass s offer = cls →
      exec .leadStart s = .next (commitOffer offer f (leadBegun q s)) := by
    intro f hf hcls
    rw [exec_leadStart_of_frame hlow hoffer hlead hf hfr hwindow, hcls, threshold_eq, hq]
  constructor
  · rintro n sl payload control seq rfl hs hp rfl hbytes hkind rfl rfl
    have hframe : offerFrame s (.slot n) = .ok (withCheck
        ([byteOf (64 * sl.cls.toNat + src), control, byteOf sl.dest, byteOf sl.length] ++ payload)) ∧
        slotSeq s sl = seq := by
      cases hk : sl.kind with
      | datagram =>
        rw [hk] at hkind
        obtain ⟨rfl, rfl⟩ := hkind
        exact ⟨offerFrame_datagram haddr hs hp hbytes hk, by simp [slotSeq, hk]⟩
      | data =>
        rw [hk] at hkind
        obtain ⟨p, hpeer, rfl, rfl⟩ := hkind
        exact ⟨offerFrame_data haddr hs hp hbytes hk hpeer, by simp [slotSeq, hk, hpeer, peerSequence]⟩
    obtain ⟨hframe, hseq⟩ := hframe
    rw [hbegin hframe (by simp [offerClass, hs]),
      commitOffer_slot (u := leadBegun q s) _ hs hp, show slotSeq (leadBegun q s) sl = seq from hseq, hu]
    rfl
  · rintro notice nodes rfl hn rfl hnodes rfl rfl
    rw [hbegin (offerFrame_notice haddr hn nodes hnodes) rfl,
      commitOffer_notice (u := leadBegun q s) _ hn, hu]
    rfl

end Sys2Proof.Machine
end

section
/-! SUPPORT. CONTENTION_LOST and LEAD_WON (R28 to R30, R70): the bit that is lost, the lead that FR takes over, and
the offer that comes back. -/

namespace Sys2Proof.Machine

open Sys2Proof

/-- A line event whose condition holds, while RESET# is high. -/
theorem lineEvent_of {holds : Bool} {s : State} (f : State → State) (hlow : s.resetLow = false)
    (hc : holds = true) : lineEvent holds f s = .next (f s) := by
  simp [lineEvent, hlow, hc]

/-- A line event whose condition does not hold (log 4). -/
theorem lineEvent_of_not {holds : Bool} {s : State} (f : State → State) (hc : holds = false) :
    lineEvent holds f s = .next s := by
  simp [lineEvent, hc]

/-- Data bit `k` of a character is its bit 7 − k (R3). -/
theorem dataBits_getD (b : Byte) (k : Fin 8) (d : LineBit) :
    (dataBits b).getD k.val d = lineBit (b.getLsbD (7 - k.val)) := by
  fin_cases k <;> rfl

/-- The state in which the lead is lost at data bit `k`, before the offer comes back (R29, R97). -/
def leadLost (lead : Byte) (k : Nat) (s : State) : State :=
  { s with
    lac := { s.lac with mode := .receive, burst := none, quiet := 0 }
    fr := { s.fr with
      mode := .header
      guard := false
      record := some { Rx.empty with leadBits := (dataBits lead).take k ++ [.dominant] } }
    ctr := { s.ctr with lostContention := bump s.ctr.lostContention } }

theorem loseLead_eq {s : State} {b : Burst} {lead : Byte} {later : List Byte} (k : Nat)
    (hb : b.chars = lead :: later) (hr : s.fr.record = none) :
    loseLead b k s = reevaluate (returnOffer b.source (leadLost lead k s)) := by
  simp only [loseLead, takeOverLead, abandonReception, countEvent, stopBurst, hr, hb, List.headD_cons]
  rfl

/-- The slot stands again behind those of the slots ahead of it that are still at the head of its queue (R70). -/
theorem returnOffer_slot {u : State} {n : SlotId} {ahead : List SlotId} {sl : Slot} (hs : slotAt u n = some sl)
    (hp : sl.phase = .sending) :
    returnOffer (.slot n ahead) u = { u with
      lac := { u.lac with offer := some (.slot n) }
      ts := { u.ts with
        slots := u.ts.slots.set n (some { sl with phase := .offered })
        queues := u.ts.queues.set sl.cls
          ((u.ts.queues.get sl.cls).takeWhile (fun m => ahead.contains m) ++ n ::
            (u.ts.queues.get sl.cls).dropWhile (fun m => ahead.contains m)) } } := by
  have hdrop (q : List SlotId) (p : SlotId → Bool) : q.drop (q.takeWhile p).length = q.dropWhile p := by
    conv_lhs => arg 2; rw [← List.takeWhile_append_dropWhile (p := p) (l := q)]
    exact List.drop_left
  simp only [returnOffer, slotWhen_of hs hp, enqueueBehind, setSlot, hdrop]

/-- The notice is pending again with its deferred part merged (R131). -/
theorem returnOffer_notice {u : State} {notice : Notice} (hn : u.rq.notice = some notice) :
    returnOffer .notice u = { u with
      lac := { u.lac with offer := some .notice }
      rq := { u.rq with notice := some notice.revert } } := by
  simp only [returnOffer, revertNotice, hn, Option.map_some]

theorem exec_contentionLost_of {s : State} {b : Burst} {k : Fin 8} {lead : Byte} {later : List Byte}
    (hlow : s.resetLow = false) (hst : s.sc.station = .online) (hm : s.lac.mode = .contend)
    (hburst : s.lac.burst = some b) (hb : b.chars = lead :: later) (hbit : lead.getLsbD (7 - k.val) = true)
    (hr : s.fr.record = none) (hk : b.bits ≤ k.val + 1) :
    exec (.contentionLost k) s = .next (reevaluate (returnOffer b.source (leadLost lead k s))) := by
  have hlead : leadBit b k = .recessive := by
    rw [leadBit, hb, List.headD_cons, dataBits_getD, hbit]
    rfl
  simp only [exec, execContentionLost, hburst]
  rw [lineEvent_of _ hlow (by simp [hm, hst, hk, hlead]), loseLead_eq k hb hr]

/-- A bit already read back as sent, or a lead in LOOP, is not lost (R28, R40). -/
theorem exec_contentionLost_unchanged {s : State} (k : Fin 8)
    (h : s.sc.station = .loop ∨ ∃ b, s.lac.burst = some b ∧ k.val + 1 < b.bits) :
    exec (.contentionLost k) s = .next s := by
  simp only [exec, execContentionLost]
  split
  · rfl
  next b hb =>
    refine lineEvent_of_not _ ?_
    rcases h with hst | ⟨b', hb', hk⟩
    · simp [hst]
    · obtain rfl : b = b' := Option.some.inj (hb.symm.trans hb')
      simp [Nat.not_le.mpr hk]

theorem exec_echoFault_in_loop {s : State} (bit : Nat) (h : s.sc.station = .loop) :
    exec (.echoFault bit) s = .next s := by
  simp only [exec, execEchoFault]
  split
  · rfl
  · exact lineEvent_of_not _ (by simp [h])

/-- Settles O53: the lost lead by the kind of what was sent, the won lead, and LOOP, where neither is read. -/
theorem contentionIsLostOrWon : Obligations.ContentionIsLostOrWon := by
  refine ⟨fun s u b k lead later hlow hst hm hburst hb hbit hr hu => ?_, fun s b lead later hlow hm hburst hb => ?_,
    fun s k bit hst => ⟨exec_contentionLost_unchanged k (.inl hst), exec_echoFault_in_loop bit hst⟩⟩
  · subst hu
    have hlost := exec_contentionLost_of hlow hst hm hburst hb hbit hr
    refine ⟨fun n ahead sl hk hsrc hs hp => ?_, fun notice hk hsrc hn => ?_,
      fun hk => exec_contentionLost_unchanged k (.inr ⟨b, hburst, hk⟩)⟩
    · refine ⟨_, hlost hk, ?_⟩
      rw [hsrc, returnOffer_slot (u := leadLost lead k s) hs hp]
      exact reevaluate_spec _
    · refine ⟨_, hlost hk, ?_⟩
      rw [hsrc, returnOffer_notice (u := leadLost lead k s) hn]
      exact reevaluate_spec _
  · simp only [exec, execLeadWon, hburst]
    rw [lineEvent_of _ hlow (by simp [hm]), hb]
    rfl

end Sys2Proof.Machine
end

section
/-! SUPPORT. ECHO_FAULT (R28, R33, R34): where a mismatch is an echo fault, the cut frame's report, and the fault
limit. -/

namespace Sys2Proof.Machine

open Sys2Proof

/-! ### Where a re-evaluation changes nothing -/

theorem reevaluate_of_busy {u : State} (h : schedulerBusy u = true) : reevaluate u = u := by
  simp [reevaluate, h]

/-- A station that does not send and holds no offer has nothing to present or to withdraw (R71, R72). -/
theorem reevaluate_of_not_sends {u : State} (hst : u.sc.station.sends = false) (ho : u.lac.offer = none) :
    reevaluate u = u := by
  unfold reevaluate
  split
  · rfl
  · simp [chooseOffer_of_not_sends hst, withdrawOffer, ho]

/-! ### The cut -/

/-- The state after an echo fault at a bit of the frame, before the cut frame is reported (R5, R33, R96). -/
def echoFaulted (b : Burst) (bit : Nat) (s : State) : State :=
  { s with
    lac := { s.lac with
      mode := .quiet, burst := none, quiet := quietAtMismatch b s.lac.quiet bit,
      faults := min 15 (s.lac.faults + 1) }
    fr := { s.fr with mode := .recover, guard := false }
    ctr := { s.ctr with echoFault := bump s.ctr.echoFault } }

theorem takeEchoFault_eq {s : State} (b : Burst) (bit : Nat) (hr : s.fr.record = none) :
    takeEchoFault b bit s = reevaluate (applyFaultLimit (reportCut b.source (echoFaulted b bit s))) := by
  obtain ⟨_, _, _, ⟨_, _, record, _⟩⟩ := s
  obtain rfl : record = none := hr
  rfl

theorem reportCut_slot {u : State} {n : SlotId} {ahead : List SlotId} {sl : Slot} (hs : slotAt u n = some sl)
    (hp : sl.phase = .sending) :
    reportCut (.slot n ahead) u = failOrRetry n { sl with attempts := sl.attempts + 1 } u := by
  simp only [reportCut, endEchoFault, slotWhen_of hs hp]

theorem reportCut_notice {u : State} {notice : Notice} (hn : u.rq.notice = some notice) :
    reportCut .notice u = { u with rq := { u.rq with notice := some notice.revert } } := by
  simp only [reportCut, revertNotice, hn, Option.map_some]

/-! ### The fault limit -/

/-- SILENT is entered from ONLINE or LOOP as for any other change of station state, with the fault event (R169). -/
theorem enterSilent_spec {c w : State} (h : SlotStopped c w) (hs : c.sc.station = .online ∨ c.sc.station = .loop) :
    enterSilent c = { leftLine .silent c w with
      sc := { c.sc with station := .silent, faultEvent := true } } := by
  simp only [enterSilent, leaveLine_spec h hs]
  rfl

/-! ### The row -/

/-- Where LAC drives a bit that it has not read back, a mismatch that is no lost contention is an echo fault (R28). -/
theorem isEchoFault_of {mode : LacMode} {b : Burst} {bit : Nat} (hbits : b.bits ≤ bit)
    (h : (mode = .contend ∧ bit < 10 ∧ (bit = 0 ∨ bit = 9 ∨ frameBit b.chars bit = .dominant)) ∨
      (mode = .send ∧ 10 ≤ bit ∧ bit < 10 * b.chars.length) ∨ (mode = .respond ∧ bit < 10 * b.chars.length)) :
    isEchoFault mode b bit = true := by
  rcases h with ⟨rfl, hlt, hbit⟩ | ⟨rfl, hge, hlt⟩ | ⟨rfl, hlt⟩
  · simpa [isEchoFault, hbits, Config.characterBits, hlt, or_assoc] using hbit
  · simp [isEchoFault, hbits, Config.characterBits, frameBits, hge, hlt]
  · simp [isEchoFault, hbits, Config.characterBits, frameBits, hlt]

theorem exec_echoFault_of {s : State} {b : Burst} {bit : Nat} (hlow : s.resetLow = false)
    (hst : s.sc.station = .online) (hburst : s.lac.burst = some b) (hf : isEchoFault s.lac.mode b bit = true)
    (hr : s.fr.record = none) :
    exec (.echoFault bit) s = .next (reevaluate (applyFaultLimit (reportCut b.source (echoFaulted b bit s)))) := by
  simp only [exec, execEchoFault, hburst]
  rw [lineEvent_of _ hlow (by simp [hst, hf]), takeEchoFault_eq b bit hr]

/-- Settles O54: the cut by what was sent, and then the fault limit. -/
theorem echoFaultCutsTheFrame : Obligations.EchoFaultCutsTheFrame := by
  intro s u c b bit hlow hst hburst hbits hwhere hr hu hc
  obtain rfl : u = echoFaulted b bit s := hu
  have hexec := exec_echoFault_of hlow hst hburst (isEchoFault_of hbits hwhere) hr
  have hcut : reportCut b.source (echoFaulted b bit s) = c := by
    rcases hc with ⟨hsrc, rfl⟩ | ⟨hsrc, notice, hn, rfl⟩ | ⟨n, ahead, sl, hsrc, hs, hp, rfl⟩
    · rw [hsrc]; rfl
    · rw [hsrc, reportCut_notice (u := echoFaulted b bit s) hn]; rfl
    · rw [hsrc, reportCut_slot (u := echoFaulted b bit s) hs hp]; rfl
  rw [hcut] at hexec
  have hsc : c.sc = s.sc := by simp [← hcut, echoFaulted]
  have hfaults : c.lac.faults = min 15 (s.lac.faults + 1) := by simp [← hcut, echoFaulted]
  have hlimit : c.cfg.faultlim = s.cfg.faultlim := by simp [← hcut, echoFaulted]
  refine ⟨fun hbelow => ⟨_, hexec, ?_⟩, fun hreached w hw => ?_⟩
  · have happly : applyFaultLimit c = c := if_neg (by omega)
    rw [happly]
    exact reevaluate_spec c
  · have happly : applyFaultLimit c = enterSilent c := if_pos (by omega)
    have hsilent : enterSilent c = { leftLine .silent c w with
        sc := { s.sc with station := .silent, faultEvent := true } } := by
      rw [enterSilent_spec hw (by rw [hsc]; exact .inl hst), hsc]
    rw [hexec, happly, hsilent, reevaluate_of_not_sends rfl rfl]

end Sys2Proof.Machine
end

section
/-! SUPPORT. FRAME_SENT (R32, R23, R78): the end of driving, and what a complete frame does to its slot or notice. -/

namespace Sys2Proof.Machine

open Sys2Proof

/-! ### The end of driving -/

/-- The state at the end of a frame of this station, before the frame is reported by its kind: in LOOP FR has
received the frame itself, else its guard is set below a count of 4 (R32, R38, R95, R113). -/
def frameEnded (b : Burst) (s : State) : State :=
  { s with
    lac := { s.lac with mode := .quiet, burst := none, quiet := quietAtEnd b, faults := 0 }
    fr := { s.fr with guard := if s.sc.station = .loop then s.fr.guard else decide (quietAtEnd b < 4) }
    ctr := { s.ctr with sent := bump s.ctr.sent } }

theorem takeFrameEnd_eq (b : Burst) (s : State) : takeFrameEnd b s = frameEnded b s := by
  by_cases hst : s.sc.station = .loop
  · exact (if_pos hst).trans (by simp only [frameEnded, hst, if_true]; rfl)
  · exact (if_neg hst).trans (by simp only [frameEnded, hst, if_false]; rfl)

theorem exec_frameSent_of {s : State} {b : Burst} (hlow : s.resetLow = false) (hm : s.lac.mode = .send)
    (hburst : s.lac.burst = some b) :
    exec .frameSent s = .next (reevaluate (reportSent b.source (frameEnded b s))) := by
  simp only [exec, execFrameSent, hburst]
  rw [lineEvent_of _ hlow (by simp [hm]), takeFrameEnd_eq]

/-! ### The report by kind -/

theorem slotSent_datagram {u : State} {n : SlotId} {sl : Slot} (hs : slotAt u n = some sl) (hp : sl.phase = .sending)
    (hk : sl.kind = .datagram) :
    slotSent n u = completeSlot n .sent { sl with attempts := sl.attempts + 1 } (demote sl.cls u) := by
  simp only [slotSent, slotWhen_of hs hp, hk]

/-- The window of a DATA slot opens (R39). -/
theorem slotSent_data {u : State} {n : SlotId} {sl : Slot} (hs : slotAt u n = some sl) (hp : sl.phase = .sending)
    (hk : sl.kind = .data) :
    slotSent n u = { u with
      lac := { u.lac with demoted := u.lac.demoted.set sl.cls true, window := some n }
      ts := { u.ts with slots := u.ts.slots.set n (some { sl with phase := .awaiting }) } } := by
  simp only [slotSent, slotWhen_of hs hp, hk]
  rfl

/-- A committed notice keeps of its deferred part the nodes that its frame has not named (R131). -/
theorem Notice.afterSent_eq (notice : Notice) :
    notice.afterSent = match notice.contents, notice.deferred with
      | .all, _ => none
      | .list _, none => none
      | .list _, some .all => some { contents := .all, committed := false, deferred := none }
      | .list sent, some (.list d) =>
        if d.filter (fun x => decide (x ∉ sent)) = [] then none
        else some { contents := .list (d.filter fun x => decide (x ∉ sent)),
                    committed := false, deferred := none } := by
  obtain ⟨contents, committed, deferred⟩ := notice
  cases contents with
  | all => rfl
  | list sent =>
    cases deferred with
    | none => rfl
    | some deferredPart =>
      cases deferredPart with
      | all => rfl
      | list d =>
        have hfilter : (d.filter fun x => !sent.contains x) = d.filter fun x => decide (x ∉ sent) := by simp
        simp only [Notice.afterSent, hfilter]
        split
        · next hnil => rw [if_pos hnil]
        · next hcons => rw [if_neg hcons]

theorem noticeSent_eq {u : State} {notice : Notice} (hn : u.rq.notice = some notice) :
    noticeSent u = { u with
      lac := { u.lac with demoted := u.lac.demoted.set .control true }
      rq := { u.rq with notice := notice.afterSent } } := by
  simp only [noticeSent, hn, Option.bind_some]
  rfl

/-- Settles O55: the end of driving, the report by kind, and for an AWAITING slot a re-evaluation that finds TS
busy. -/
theorem frameSentByItsKind : Obligations.FrameSentByItsKind := by
  intro s b q guard hlow hst hm hburst hq
  obtain rfl : guard = if s.sc.station = .loop then s.fr.guard else decide (quietAtEnd b < 4) := by
    rcases hst with ⟨hst, rfl⟩ | ⟨hst, rfl⟩ <;> simp [hst, hq]
  subst hq
  have hexec := exec_frameSent_of hlow hm hburst
  refine ⟨fun n ahead sl hsrc hs hp hk => ⟨_, hexec, ?_⟩, fun n ahead sl hsrc hs hp hk => ?_,
    fun notice hsrc hn => ⟨_, hexec, ?_⟩⟩
  · rw [hsrc, reportSent, slotSent_datagram (u := frameEnded b s) hs hp hk]
    exact reevaluate_spec _
  · rw [hexec, hsrc, reportSent, slotSent_data (u := frameEnded b s) hs hp hk, reevaluate_of_busy]
    · rfl
    · rw [schedulerBusy_iff]
      refine .inr ⟨n, { sl with phase := .awaiting }, ?_, .inr rfl⟩
      exact (slotAt_setSlot n n _ s).trans (if_pos rfl)
  · rw [hsrc, reportSent, noticeSent_eq (u := frameEnded b s) hn, Notice.afterSent_eq]
    exact reevaluate_spec _

end Sys2Proof.Machine
end

section
/-! SUPPORT. RESPONSE_START and RESPONSE_SENT (R37, R38): the count and the marks that the row brings, the six
characters, and the end of driving. -/

namespace Sys2Proof.Machine

open Sys2Proof

/-! ### A mark that the quiet count reaches in HUNT -/

/-- From a count of 4 on FR's guard is clear in HUNT (R95). -/
theorem Fr.atQuiet_of_hunt {q : Nat} {fr : Fr} (hm : fr.mode = .hunt) (hq : 4 ≤ q) :
    fr.atQuiet q = { fr with guard := false } := by
  simp [Fr.atQuiet, hm, Config.responseGap, hq]

/-- The quiet count stands at `q`, with FR's guard clear. -/
def guardClearAt (q : Nat) (s : State) : State :=
  { s with lac := { s.lac with quiet := q }, fr := { s.fr with guard := false } }

theorem reachQuiet_of_hunt {s : State} {n : Nat} (hm : s.fr.mode = .hunt) (hn : 4 ≤ n) :
    reachQuiet n s = guardClearAt (max s.lac.quiet n) s := by
  simp only [reachQuiet, Fr.atQuiet_of_hunt hm (le_max_of_le_right hn), guardClearAt]

/-- The count of 4 reaches no mark but FR's. -/
theorem marksTaken_reachQuiet {s : State} (h : MarksTaken s) : MarksTaken (reachQuiet 4 s) := by
  obtain ⟨htruncated, hdeadline, hdemoted⟩ := h
  refine ⟨fun hq => ?_, fun hq => hdeadline ?_, fun hm c hq => hdemoted hm c ?_⟩
  · rw [waitsForCharacter_reachQuiet]
    exact htruncated (by simpa using hq)
  · simpa using hq
  · rw [reachQuiet_quiet] at hq
    omega

theorem takeMarks_reachQuiet {s : State} (h : MarksTaken s) (hm : s.fr.mode = .hunt) :
    takeMarks (reachQuiet 4 s) = guardClearAt (max s.lac.quiet 4) s := by
  rw [takeMarks_of_taken (marksTaken_reachQuiet h), reachQuiet_of_hunt hm (Nat.le_refl 4)]
  simp only [reachQuiet, guardClearAt, Nat.max_zero,
    Fr.atQuiet_of_hunt (fr := { s.fr with guard := false }) hm (Nat.le_max_right _ _)]

/-! ### The response -/

theorem responseChars_eq (a : Nat) (o : ResponseOrder) :
    responseChars a o = withCheck
      [byteOf a, byteOf ((match o.kind with | .ack => 0x30 | .busy => 0x40) + if o.seq then 1 else 0),
        byteOf o.dest, o.reason] := by
  have hlead : leadChar .urgent a = byteOf a := by simp [leadChar, Class.toNat]
  obtain ⟨kind, _, seq, _, _⟩ := o
  cases kind <;> cases seq <;> simp only [responseChars, hlead] <;> rfl

theorem exec_responseStart_of {s : State} {o : ResponseOrder} {a : Nat} (hlow : s.resetLow = false)
    (hst : s.sc.station = .online ∨ s.sc.station = .loop) (ho : s.lac.order = some o) (ha : s.sc.address = some a)
    (hm : s.lac.mode = .quiet) (hfr : s.fr.mode = .hunt) (ht : MarksTaken s) :
    exec .responseStart s = .next (startBurst .respond .response (responseChars a o)
      { ownStartBit (guardClearAt (max s.lac.quiet 4) s) with
        lac := { (ownStartBit (guardClearAt (max s.lac.quiet 4) s)).lac with order := none } }) := by
  have hsends : s.sc.station.sends = true := by rcases hst with hst | hst <;> simp [hst, Station.sends]
  simp only [exec, execResponseStart, ho]
  rw [if_pos (by simp [hlow, hsends, hm]), ← takeMarks_reachQuiet ht hfr]
  simp only [ha]
  rfl

/-- Settles O56: the response starts with FR's guard clear, in LOOP with its start bit taken, and ends as every frame
of this station does. -/
theorem responseIsSent : Obligations.ResponseIsSent := by
  refine fun s hlow hst => ⟨fun o a chars ho ha hm hfr ht hchars => ?_, fun b hm hburst => ?_⟩
  · obtain rfl : chars = responseChars a o := hchars.trans (responseChars_eq a o).symm
    rw [exec_responseStart_of hlow hst ho ha hm hfr ht]
    by_cases hloop : s.sc.station = .loop
    · rw [ownStartBit_of_loop (s := guardClearAt _ s) hloop hfr]
      simp only [startBurst, guardClearAt, hloop, if_true]
    · rw [ownStartBit_of_not_loop (s := guardClearAt _ s) hloop]
      simp only [startBurst, guardClearAt, hloop, if_false]
  · simp only [exec, execResponseSent, hburst]
    rw [lineEvent_of _ hlow (by simp [hm]), takeFrameEnd_eq]
    exact ⟨_, rfl, reevaluate_spec _⟩

end Sys2Proof.Machine
end

section
/-! SUPPORT. NO_RESPONSE and the stray in an open window (R39, R80, R95, R150). -/

namespace Sys2Proof.Machine

open Sys2Proof

/-- The AWAITING slot's window ends without a valid response (R80, R88). -/
theorem endUnanswered_of {u : State} {n : SlotId} {sl : Slot} (hs : slotAt u n = some sl)
    (hp : sl.phase = .awaiting) : endUnanswered n u = afterNoAnswer n sl u := by
  simp only [endUnanswered, slotWhen_of hs hp]
  rfl

/-- The response window is closed. -/
def windowClosed (u : State) : State := { u with lac := { u.lac with window := none } }

theorem closeAtDeadline_of_window {u : State} {n : SlotId} {sl : Slot} (hw : u.lac.window = some n)
    (hs : slotAt u n = some sl) (hp : sl.phase = .awaiting) :
    closeAtDeadline u = reevaluate (afterNoAnswer n sl (windowClosed u)) := by
  simp only [closeAtDeadline, hw, takeNoResponse]
  exact congrArg reevaluate (endUnanswered_of (u := windowClosed u) hs hp)

theorem exec_noResponse_of {s : State} {n : SlotId} (hlow : s.resetLow = false) (hm : s.lac.mode = .quiet)
    (hw : s.lac.window = some n) (hfr : s.fr.mode = .hunt) :
    exec .noResponse s = .next (closeAtDeadline (guardClearAt (max s.lac.quiet 10) s)) := by
  simp only [exec, execNoResponse, hw]
  rw [lineEvent_of _ hlow (by simp [hm])]
  rw [Config.responseDeadline, reachQuiet_of_hunt hfr (by decide)]

/-- The state after a stray, before the window closes (R95, R5). -/
def strayed (s : State) : State :=
  { s with
    lac := { s.lac with quiet := 0, order := none }
    fr := { s.fr with mode := .recover, guard := false }
    ctr := { s.ctr with stray := bump s.ctr.stray } }

theorem takeStray_eq {s : State} (hr : s.fr.record = none) : takeStray s = strayCandidate (strayed s) := by
  obtain ⟨_, _, _, ⟨_, _, record, _⟩⟩ := s
  obtain rfl : record = none := hr
  rfl

/-- The stray is the failed candidate of the one slot that awaits a response (R150). -/
theorem strayCandidate_of_window {u : State} {n : SlotId} {sl : Slot} (hw : u.lac.window = some n)
    (hs : slotAt u n = some sl) (hp : sl.phase = .awaiting) (hothers : ∀ m, m ≠ n → slotIn u .awaiting m = false) :
    strayCandidate u = reevaluate (afterNoAnswer n sl (windowClosed u)) := by
  have honly : ∀ m sm, slotAt u m = some sm → sm.phase = .awaiting → m = n := by
    intro m sm hsm hpm
    by_contra hne
    have hin : slotIn u .awaiting m = true := slotIn_iff.mpr ⟨sm, hsm, hpm⟩
    rw [hothers m hne] at hin
    cases hin
  have hawaits : awaitingSlot (windowClosed u) = some n :=
    awaitingSlot_only (s := windowClosed u) hs hp honly
  rw [windowClosed] at hawaits
  simp only [strayCandidate, hw, failCandidate, hawaits, takeNoResponse]
  exact congrArg reevaluate (endUnanswered_of (u := windowClosed u) hs hp)

/-- A start bit in HUNT with the guard set is a stray; below a count of 4 it finds no mark left to take (R95). -/
theorem exec_startBit_stray {s : State} (hlow : s.resetLow = false) (hst : s.sc.station.readsLine = true)
    (hdrives : s.lac.mode.drives = false) (hfr : s.fr.mode = .hunt) (hguard : s.fr.guard = true)
    (hq : s.lac.quiet < 4) (hr : s.fr.record = none) :
    exec .startBit s = .next (strayCandidate (strayed s)) := by
  have hfrq : s.fr.atQuiet s.lac.quiet = s.fr :=
    Fr.atQuiet_below (fun _ _ => hq) (fun hm => by rw [hfr] at hm; cases hm)
  have hmarks : takeMarks s = s := by
    rw [takeMarks_of_taken (marksTaken_below (.inl (by omega)))]
    simp only [reachQuiet, Nat.max_zero, hfrq]
  simp only [exec, execStartBit]
  rw [lineEvent_of _ hlow (by simp [hst, hdrives]), hmarks]
  simp only [takeStartBit, hfr, hguard, if_true, takeStray_eq hr]

/-- Settles O57: at the deadline and at a stray, the same end of an attempt that drew no answer. -/
theorem windowEndsUnanswered : Obligations.WindowEndsUnanswered := by
  refine ⟨fun s n sl hlow hm hw hs hp hfr => ?_, fun s n sl hlow hst hdrives hfr hguard hq hr hw hs hp hothers => ?_⟩
  · refine ⟨_, exec_noResponse_of hlow hm hw hfr, ?_⟩
    rw [closeAtDeadline_of_window (u := guardClearAt (max s.lac.quiet 10) s) hw hs hp]
    exact reevaluate_spec _
  · refine ⟨_, exec_startBit_stray hlow hst hdrives hfr hguard hq hr, ?_⟩
    rw [strayCandidate_of_window (u := strayed s) hw hs hp hothers]
    exact reevaluate_spec _

end Sys2Proof.Machine
end

section
/-! SUPPORT. The two ends of an attempt (R69, R84, R145, R149), and COLLECT (R86), which takes the record of a slot that
has ended. -/

namespace Sys2Proof.Machine

open Sys2Proof

/-! ### The peer entry at a slot's end -/

/-- Two changes of the same entry are one, the second after the first. -/
theorem modifyPeer_modifyPeer {node : Nat} {f g : Peer → Peer} (hg : ∀ p, (g p).node = p.node) (ps : List Peer) :
    modifyPeer node f (modifyPeer node g ps) = modifyPeer node (fun p => f (g p)) ps := by
  simp only [modifyPeer, List.map_map]
  refine List.map_congr_left fun p _ => ?_
  by_cases hp : p.node = node <;> simp [hp, hg]

/-- A change of an entry that is made or not, as one change. -/
theorem ite_withPeer (b : Bool) (node : Nat) (f : Peer → Peer) (s : State) :
    (if b then withPeer node f s else s) = withPeer node (fun p => if b then f p else p) s := by
  cases b
  · simp [withPeer, modifyPeer]
  · rfl

/-- A peer entry once a slot to its node has ended: active no more where the slot held it, and out of sync where an
uncertain attempt was not DELIVERED (R145, R149). -/
def Peer.afterEnd (o : SlotOutcome) (sl : Slot) (p : Peer) : Peer :=
  { p with
    active := p.active && !sl.holdsPeer
    synced := p.synced && !(sl.uncertain && decide (o ≠ .delivered))
    txSeq := if sl.uncertain ∧ o ≠ .delivered then !p.txSeq else p.txSeq }

/-- PT's part of a slot's end changes the entry of a DATA slot's destination, and nothing else. -/
theorem reportEnd_eq (o : SlotOutcome) (sl : Slot) (s : State) :
    reportEnd o sl s = { s with pt := match sl.kind with
      | .datagram => s.pt
      | .data => modifyPeer sl.dest (Peer.afterEnd o sl) s.pt } := by
  cases hk : sl.kind with
  | datagram => simp only [reportEnd, hk]
  | data =>
    have hend : (fun p => if (sl.uncertain && decide (o ≠ .delivered)) = true
        then unsyncPeer (if sl.holdsPeer then { p with active := false } else p)
        else if sl.holdsPeer then { p with active := false } else p) = Peer.afterEnd o sl := by
      funext p
      cases hh : sl.holdsPeer <;> cases hu : sl.uncertain <;> by_cases ho : o = .delivered <;>
        simp [Peer.afterEnd, unsyncPeer, hh, hu, ho]
    simp only [reportEnd, clearActive, hk, ite_withPeer]
    rw [← hend]
    simp only [withPeer]
    rw [modifyPeer_modifyPeer fun p => by split <;> rfl]

/-! ### The ends of an attempt -/

theorem completeSlot_eq (n : SlotId) (o : SlotOutcome) (sl : Slot) (s : State) :
    completeSlot n o sl s = { s with
      ts := { s.ts with
        slots := s.ts.slots.set n (some { sl with phase := .done o, chain := [], abortPending := false })
        completion := s.ts.completion ++ [n] }
      bp := { s.bp with free := s.bp.free ++ sl.chain }
      pt := match sl.kind with
        | .datagram => s.pt
        | .data => modifyPeer sl.dest (Peer.afterEnd o sl) s.pt } := by
  rw [completeSlot, reportEnd_eq]
  rfl

@[simp] theorem completeSlot_completion (n : SlotId) (o : SlotOutcome) (sl : Slot) (s : State) :
    (completeSlot n o sl s).ts.completion = s.ts.completion ++ [n] := by
  rw [completeSlot_eq]

theorem requeueFront_eq (n : SlotId) (sl : Slot) (s : State) :
    requeueFront n sl s = { s with
      ts := { s.ts with
        slots := s.ts.slots.set n (some { sl with phase := .queued })
        queues := s.ts.queues.set sl.cls (n :: s.ts.queues.get sl.cls) }
      pt := match sl.kind with
        | .datagram => s.pt
        | .data => modifyPeer sl.dest (fun p => { p with active := false }) s.pt } := by
  cases hk : sl.kind <;> simp only [requeueFront, clearActive, hk] <;> rfl

/-- Settles O23: both ends by the kind of the slot. -/
theorem endsOfAnAttempt : Obligations.EndsOfAnAttempt :=
  ⟨completeSlot_eq, requeueFront_eq⟩

/-! ### COLLECT -/

theorem completionRecord_eq (n : SlotId) (o : SlotOutcome) (sl : Slot) :
    completionRecord n o sl =
      { b0 := byteOf (16 * (match o with
          | .delivered => 1 | .sent => 2 | .aborted => 3 | .failed => 4 | .refused => 5) + n.val)
        b1 := byteOf ((if sl.uncertain then 128 else 0) + (if sl.reason = none then 0 else 64) + sl.attempts)
        b2 := byteOf sl.busyCount
        b3 := match sl.reason with | none => 0 | some v => v } := by
  cases o <;> cases hu : sl.uncertain <;> cases hr : sl.reason <;>
    simp [completionRecord, outcomeCode, flagBit, hu, hr]

/-- A slot in DONE has its outcome and its record to give. -/
theorem collectable_of_done {s : State} {n : SlotId} {sl : Slot} {o : SlotOutcome} (hs : slotAt s n = some sl)
    (hp : sl.phase = .done o) : collectable s n = some (o, sl) := by
  simp [collectable, hs, hp, SlotPhase.outcome]

/-- While RESET# is high a row of the host port has its effect. -/
theorem hostAccess_of_high {s : State} (f : State → State) (h : s.resetLow = false) :
    hostAccess f s = .next (f s) := by
  simp [hostAccess, h]

theorem collectBody_of_empty {u : State} (h : u.ts.completion = []) : collectBody u = answerBare .empty u := by
  simp only [collectBody, h]

theorem collectBody_of_done {u : State} {n : SlotId} {rest : List SlotId} {sl : Slot} {o : SlotOutcome}
    (hlist : u.ts.completion = n :: rest) (hs : slotAt u n = some sl) (hp : sl.phase = .done o) :
    collectBody u = answer .ok (completionRecord n o sl)
      (setSlot n none { u with ts := { u.ts with completion := rest } }) := by
  simp only [collectBody, hlist, collectable_of_done hs hp]

/-- Settles O22: the front of the completion list, with its record read and its slot FREE. -/
theorem collectTakesTheOldestRecord : Obligations.CollectTakesTheOldestRecord := by
  intro s hhigh
  have hexec : exec .collect s = .next (collectBody (recordCode 0x13 s)) := by
    rw [exec, execCollect, hostAccess_of_high _ hhigh]
  refine ⟨fun hempty => ?_, fun n rest sl o hlist hs hp => ?_, fun n o sl => completeSlot_completion n o sl s⟩
  · rw [hexec, collectBody_of_empty (u := recordCode 0x13 s) hempty]
    rfl
  · rw [hexec, collectBody_of_done (u := recordCode 0x13 s) hlist hs hp, completionRecord_eq]
    rfl

end Sys2Proof.Machine
end

section
/-! SUPPORT. The law of the queues (R69, R85) by counting: how often a class queue and the completion list name a slot,
read off the slot's record; and each way in which one slot's record and its places change together. -/

namespace Sys2Proof.Machine

open Sys2Proof

/-! ### The law by counting -/

/-- How often the queue of a class names a slot with this record: once in QUEUED and OFFERED. -/
def queuePlaces (c : Sys2Proof.Class) : Option Slot → Nat
  | none => 0
  | some sl => if sl.cls = c ∧ sl.phase.waits = true then 1 else 0

/-- How often the completion list names a slot with this record: once in DONE. -/
def completionPlaces : Option Slot → Nat
  | none => 0
  | some sl => if sl.phase.outcome.isSome then 1 else 0

theorem queuePlaces_some (c : Sys2Proof.Class) (sl : Slot) :
    queuePlaces c (some sl) = if sl.cls = c ∧ sl.phase.waits = true then 1 else 0 := rfl

theorem completionPlaces_some (sl : Slot) :
    completionPlaces (some sl) = if sl.phase.outcome.isSome then 1 else 0 := rfl

/-- A list that names exactly what has a property, each once, counts 1 for it and 0 for the rest. -/
theorem nodup_mem_iff_count {α : Type} [DecidableEq α] {l : List α} {p : α → Prop} {k : α → Nat}
    (hk : ∀ a, k a ≤ 1) (hp : ∀ a, p a ↔ 0 < k a) :
    (l.Nodup ∧ ∀ a, a ∈ l ↔ p a) ↔ ∀ a, l.count a = k a := by
  constructor
  · rintro ⟨hnodup, hmem⟩ a
    have hle := List.nodup_iff_count_le_one.mp hnodup a
    have hpos : 0 < l.count a ↔ 0 < k a := List.count_pos_iff.trans ((hmem a).trans (hp a))
    have := hk a
    omega
  · intro h
    refine ⟨List.nodup_iff_count_le_one.mpr fun a => by rw [h]; exact hk a, fun a => ?_⟩
    rw [← List.count_pos_iff, h, hp]

theorem queuePlaces_le (c : Sys2Proof.Class) (r : Option Slot) : queuePlaces c r ≤ 1 := by
  unfold queuePlaces
  split <;> [skip; split] <;> omega

theorem completionPlaces_le (r : Option Slot) : completionPlaces r ≤ 1 := by
  unfold completionPlaces
  split <;> [skip; split] <;> omega

theorem queuePlaces_pos {c : Sys2Proof.Class} {r : Option Slot} :
    (∃ sl, r = some sl ∧ sl.cls = c ∧ sl.phase.waits = true) ↔ 0 < queuePlaces c r := by
  cases r with
  | none => simp [queuePlaces]
  | some sl => rw [queuePlaces_some]; split <;> simp [*]

theorem completionPlaces_pos {r : Option Slot} :
    (∃ sl, r = some sl ∧ sl.phase.outcome.isSome = true) ↔ 0 < completionPlaces r := by
  cases r with
  | none => simp [completionPlaces]
  | some sl => rw [completionPlaces_some]; split <;> simp [*]

/-- The law of the queues: every count is the one that the slot's record asks for. -/
theorem queuesLaw_iff {s : State} :
    QueuesLaw s ↔ (∀ c n, (s.ts.queues.get c).count n = queuePlaces c (slotAt s n)) ∧
      ∀ n, s.ts.completion.count n = completionPlaces (slotAt s n) :=
  and_congr
    (forall_congr' fun c => nodup_mem_iff_count (fun _ => queuePlaces_le c _) fun _ => queuePlaces_pos)
    (nodup_mem_iff_count (fun _ => completionPlaces_le _) fun _ => completionPlaces_pos)

theorem QueuesLaw.count_queue {s : State} (h : QueuesLaw s) (c : Sys2Proof.Class) (n : SlotId) :
    (s.ts.queues.get c).count n = queuePlaces c (slotAt s n) :=
  (Iff.mp queuesLaw_iff h).1 c n

theorem QueuesLaw.count_completion {s : State} (h : QueuesLaw s) (n : SlotId) :
    s.ts.completion.count n = completionPlaces (slotAt s n) :=
  (Iff.mp queuesLaw_iff h).2 n

theorem queuesLaw_of_counts {s : State} (hq : ∀ c n, (s.ts.queues.get c).count n = queuePlaces c (slotAt s n))
    (hc : ∀ n, s.ts.completion.count n = completionPlaces (slotAt s n)) : QueuesLaw s :=
  Iff.mpr queuesLaw_iff ⟨hq, hc⟩

/-- The law looks at TS alone. -/
theorem QueuesLaw.of_ts {s t : State} (h : QueuesLaw s) (hts : t.ts = s.ts) : QueuesLaw t := by
  simpa only [QueuesLaw, slotAt, hts] using h

/-! ### One slot's record and its places -/

/-- Of the class queues only the places of slot `n` may differ, and they are those of the record `r`. -/
def QueuesFollow (n : SlotId) (r : Option Slot) (s t : State) : Prop :=
  ∀ c m, (t.ts.queues.get c).count m = if n = m then queuePlaces c r else (s.ts.queues.get c).count m

/-- Of the completion list only the places of slot `n` may differ, and they are those of the record `r`. -/
def CompletionFollows (n : SlotId) (r : Option Slot) (s t : State) : Prop :=
  ∀ m, t.ts.completion.count m = if n = m then completionPlaces r else s.ts.completion.count m

/-- The law goes on when one slot's record is replaced and its places follow. -/
theorem QueuesLaw.replace {s t : State} {n : SlotId} {r : Option Slot} (h : QueuesLaw s)
    (hslots : t.ts.slots = s.ts.slots.set n r) (hqueues : QueuesFollow n r s t)
    (hcompletion : CompletionFollows n r s t) : QueuesLaw t := by
  have hslot (m : SlotId) : slotAt t m = if n = m then r else slotAt s m := by
    rw [slotAt_congr (s := setSlot n r s) hslots, slotAt_setSlot]
  refine queuesLaw_of_counts (fun c m => ?_) fun m => ?_
  · rw [hqueues, hslot, h.count_queue]
    split <;> rfl
  · rw [hcompletion, hslot, h.count_completion]
    split <;> rfl

section

variable {s t : State} {n : SlotId} {r : Option Slot} {sl : Slot}

theorem QueuesLaw.queues_stay (h : QueuesLaw s) (hqueues : t.ts.queues = s.ts.queues)
    (hr : ∀ c, queuePlaces c r = queuePlaces c (slotAt s n)) : QueuesFollow n r s t := by
  intro c m
  rw [hqueues, h.count_queue]
  split
  · next e => rw [hr, e]
  · rfl

theorem QueuesLaw.completion_stays (h : QueuesLaw s) (hcompletion : t.ts.completion = s.ts.completion)
    (hr : completionPlaces r = completionPlaces (slotAt s n)) : CompletionFollows n r s t := by
  intro m
  rw [hcompletion, h.count_completion]
  split
  · next e => rw [hr, e]
  · rfl

/-- A slot without a place in the queues gets one in its class, wherever in that queue it is put (R68 to R70). -/
theorem QueuesLaw.queues_join (h : QueuesLaw s) (hold : ∀ c, queuePlaces c (slotAt s n) = 0)
    (hwaits : sl.phase.waits = true) {q : List SlotId} (hqueues : t.ts.queues = s.ts.queues.set sl.cls q)
    (hq : q.Perm (n :: s.ts.queues.get sl.cls)) : QueuesFollow n (some sl) s t := by
  intro c m
  have hcount := h.count_queue
  rw [hqueues, PerClass.get_set]
  by_cases hc : sl.cls = c
  · subst hc
    rw [if_pos rfl, hq.count_eq, List.count_cons, hcount]
    by_cases e : n = m
    · subst e
      simp [hold, queuePlaces_some, hwaits]
    · simp [e]
  · rw [if_neg hc]
    by_cases e : n = m
    · subst e
      simp [hcount, hold, queuePlaces_some, hc]
    · simp [e]

/-- A slot leaves its class queue (R69). -/
theorem QueuesLaw.queues_leave (h : QueuesLaw s) (hs : slotAt s n = some sl) (hr : ∀ c, queuePlaces c r = 0)
    (hqueues : t.ts.queues = s.ts.queues.set sl.cls ((s.ts.queues.get sl.cls).filter fun m => m ≠ n)) :
    QueuesFollow n r s t := by
  intro c m
  have hcount := h.count_queue
  rw [hqueues, PerClass.get_set, hr]
  by_cases e : n = m
  · subst e
    rw [if_pos rfl]
    split
    · exact List.count_eq_zero.mpr (by simp)
    · next hc => simp [hcount, hs, queuePlaces_some, hc]
  · rw [if_neg e]
    split
    · next hc =>
      subst hc
      exact List.count_filter (by simpa using Ne.symm e)
    · rfl

/-- A slot that becomes DONE joins the completion list (R85). -/
theorem QueuesLaw.completion_joins (h : QueuesLaw s) (hold : completionPlaces (slotAt s n) = 0)
    (hr : completionPlaces r = 1) (hcompletion : t.ts.completion = s.ts.completion ++ [n]) :
    CompletionFollows n r s t := by
  intro m
  rw [hcompletion, List.count_append, h.count_completion]
  by_cases e : n = m
  · subst e; simp [hold, hr]
  · simp [e]

/-- The slot at the front of the completion list leaves it (R86). -/
theorem QueuesLaw.completion_leaves (h : QueuesLaw s) (hr : completionPlaces r = 0)
    (hcompletion : s.ts.completion = n :: t.ts.completion) : CompletionFollows n r s t := by
  intro m
  have hcount := h.count_completion m
  rw [hcompletion, List.count_cons] at hcount ⊢
  by_cases e : n = m
  · subst e
    have := completionPlaces_le (slotAt s n)
    simp at hcount
    simp [hr]
    omega
  · simp [e]

end

end Sys2Proof.Machine
end

section
/-! SUPPORT. Each shared operation of the scheduler, the queue and the receiver keeps the law of the queues. -/

namespace Sys2Proof.Machine

open Sys2Proof

/-! ### Where a slot has its places -/

section

variable {s t : State} {n : SlotId} {sl : Slot}

/-- A slot outside QUEUED and OFFERED is in no class queue. -/
theorem queuePlaces_of_not_waits {r : Option Slot} (h : ∀ sl, r = some sl → sl.phase.waits = false)
    (c : Sys2Proof.Class) : queuePlaces c r = 0 := by
  cases r with
  | none => rfl
  | some sl => simp [queuePlaces_some, h sl rfl]

/-- A slot outside DONE is not in the completion list. -/
theorem completionPlaces_of_not_done {r : Option Slot} (h : ∀ sl, r = some sl → sl.phase.outcome = none) :
    completionPlaces r = 0 := by
  cases r with
  | none => rfl
  | some sl => simp [completionPlaces_some, h sl rfl]

/-- SENDING and AWAITING, the states of an attempt under way, give a slot no place. -/
def SlotPhase.underway : SlotPhase → Bool
  | .sending | .awaiting => true
  | _ => false

theorem queuePlaces_of_underway (hs : slotAt s n = some sl) (hp : sl.phase.underway = true)
    (c : Sys2Proof.Class) : queuePlaces c (slotAt s n) = 0 := by
  refine queuePlaces_of_not_waits (fun x hx => ?_) c
  obtain rfl := Option.some.inj (hs.symm.trans hx)
  cases hph : sl.phase <;> simp_all [SlotPhase.underway, SlotPhase.waits]

theorem completionPlaces_of_underway (hs : slotAt s n = some sl) (hp : sl.phase.underway = true) :
    completionPlaces (slotAt s n) = 0 := by
  refine completionPlaces_of_not_done fun x hx => ?_
  obtain rfl := Option.some.inj (hs.symm.trans hx)
  cases hph : sl.phase <;> simp_all [SlotPhase.underway, SlotPhase.outcome]

/-- A record is replaced by one with the same places. -/
theorem QueuesLaw.rewrite {r : Option Slot} (h : QueuesLaw s)
    (hslots : t.ts.slots = s.ts.slots.set n r) (hqueues : t.ts.queues = s.ts.queues)
    (hcompletion : t.ts.completion = s.ts.completion) (hq : ∀ c, queuePlaces c r = queuePlaces c (slotAt s n))
    (hc : completionPlaces r = completionPlaces (slotAt s n)) : QueuesLaw t :=
  h.replace hslots (h.queues_stay hqueues hq) (h.completion_stays hcompletion hc)

/-- An attempt under way becomes DONE (R84, R85). -/
theorem queuesLaw_completeSlot (h : QueuesLaw s) (hs : slotAt s n = some sl) (hp : sl.phase.underway = true)
    (o : SlotOutcome) (sl' : Slot) : QueuesLaw (completeSlot n o sl' s) :=
  h.replace (completeSlot_slots n o sl' s)
    (h.queues_stay (by simp) fun c => by
      rw [queuePlaces_of_underway hs hp, queuePlaces_of_not_waits]
      rintro _ ⟨⟩; rfl)
    (h.completion_joins (completionPlaces_of_underway hs hp) rfl (by simp))

/-- An attempt under way goes back to the front of its class queue (R69). -/
theorem queuesLaw_requeueFront (h : QueuesLaw s) (hs : slotAt s n = some sl) (hp : sl.phase.underway = true)
    (sl' : Slot) : QueuesLaw (requeueFront n sl' s) :=
  h.replace (requeueFront_slots n sl' s)
    (h.queues_join (sl := { sl' with phase := .queued }) (queuePlaces_of_underway hs hp) rfl
      (by rw [requeueFront_eq]) (.refl _))
    (h.completion_stays (by simp) (by rw [completionPlaces_of_underway hs hp]; rfl))

/-- A slot in its class queue becomes DONE by an ABORT (R87). -/
theorem queuesLaw_completeSlot_dequeue (h : QueuesLaw s) (hs : slotAt s n = some sl) (hw : sl.phase.waits = true)
    (o : SlotOutcome) : QueuesLaw (completeSlot n o sl (dequeue sl.cls n s)) :=
  h.replace (completeSlot_slots n o sl _)
    (h.queues_leave hs (queuePlaces_of_not_waits (by rintro _ ⟨⟩; rfl)) (by simp))
    (h.completion_joins
      (completionPlaces_of_not_done fun x hx => by
        obtain rfl := Option.some.inj (hs.symm.trans hx)
        cases hph : sl.phase <;> simp_all [SlotPhase.waits, SlotPhase.outcome])
      rfl (by simp))

theorem slotWhen_underway {p : SlotPhase} (hp : p.underway = true) (hw : slotWhen s p n = some sl) :
    slotAt s n = some sl ∧ sl.phase.underway = true := by
  obtain ⟨hs, rfl⟩ := slotWhen_eq_some.mp hw
  exact ⟨hs, hp⟩

end

/-! ### A re-evaluation -/

theorem queuePlaces_settled (c : Sys2Proof.Class) (r : Option Slot) :
    queuePlaces c (r.map Slot.settled) = queuePlaces c r := by
  cases r with
  | none => rfl
  | some sl => cases hp : sl.phase <;> simp [queuePlaces_some, Slot.settled, hp, SlotPhase.waits]

theorem completionPlaces_settled (r : Option Slot) : completionPlaces (r.map Slot.settled) = completionPlaces r := by
  cases r with
  | none => rfl
  | some sl => cases hp : sl.phase <;> simp [completionPlaces_some, Slot.settled, hp, SlotPhase.outcome]

/-- A slot keeps its place in its queue when it is presented or goes back (R75). -/
theorem QueuesLaw.of_sameButOffer {u t : State} (h : QueuesLaw u) (hsame : SameButOffer u t) : QueuesLaw t := by
  obtain ⟨hslots, ht⟩ := hsame
  refine queuesLaw_of_counts (fun c n => ?_) fun n => ?_
  · rw [← queuePlaces_settled, hslots, queuePlaces_settled, ← h.count_queue, ht]
  · rw [← completionPlaces_settled, hslots, completionPlaces_settled, ← h.count_completion, ht]

theorem queuesLaw_reevaluate {s : State} (h : QueuesLaw s) : QueuesLaw (reevaluate s) :=
  h.of_sameButOffer (reevaluate_spec s).1

theorem queuesLaw_withdrawOffer {s : State} (h : QueuesLaw s) : QueuesLaw (withdrawOffer s) :=
  h.of_sameButOffer (withdrawOffer_spec s).1

/-! ### The ends of an attempt -/

section

variable {s : State} {n : SlotId}

theorem queuesLaw_failOrRetry {sl : Slot} (h : QueuesLaw s) (hs : slotAt s n = some sl)
    (hp : sl.phase.underway = true) (sl' : Slot) : QueuesLaw (failOrRetry n sl' s) := by
  unfold failOrRetry
  split
  · exact queuesLaw_completeSlot h hs hp _ _
  · exact queuesLaw_requeueFront h hs hp _

theorem queuesLaw_endUnanswered (h : QueuesLaw s) (n : SlotId) : QueuesLaw (endUnanswered n s) := by
  unfold endUnanswered
  split
  · exact h
  · next sl hw =>
    obtain ⟨hs, hp⟩ := slotWhen_underway rfl hw
    dsimp only
    split
    · exact queuesLaw_completeSlot h hs hp _ _
    · exact queuesLaw_failOrRetry h hs hp _

theorem queuesLaw_endEchoFault (h : QueuesLaw s) (n : SlotId) : QueuesLaw (endEchoFault n s) := by
  unfold endEchoFault
  split
  · exact h
  · next sl hw =>
    obtain ⟨hs, hp⟩ := slotWhen_underway rfl hw
    exact queuesLaw_failOrRetry h hs hp _

theorem queuesLaw_endCut (h : QueuesLaw s) (n : SlotId) : QueuesLaw (endCut n s) := by
  unfold endCut
  split
  · exact h
  · next sl hw =>
    obtain ⟨hs, hp⟩ := slotWhen_underway rfl hw
    exact queuesLaw_requeueFront h hs hp _

theorem queuesLaw_endAborted (h : QueuesLaw s) (n : SlotId) : QueuesLaw (endAborted n s) := by
  unfold endAborted
  split
  · exact h
  · next sl hw =>
    obtain ⟨hs, hp⟩ := slotWhen_underway rfl hw
    exact queuesLaw_completeSlot h hs hp _ _

/-! ### The window and the response -/

theorem queuesLaw_takeNoResponse (h : QueuesLaw s) (n : SlotId) : QueuesLaw (takeNoResponse n s) :=
  queuesLaw_reevaluate (queuesLaw_endUnanswered h n)

theorem queuesLaw_takeAck (h : QueuesLaw s) (n : SlotId) : QueuesLaw (takeAck n s) := by
  unfold takeAck
  split
  · exact h
  · next sl hw =>
    obtain ⟨hs, hp⟩ := slotWhen_underway rfl hw
    have hacked : QueuesLaw (ackPeer sl.dest s) := h.of_ts rfl
    exact queuesLaw_reevaluate (queuesLaw_completeSlot hacked hs hp _ _)

theorem queuesLaw_takeBusy (h : QueuesLaw s) (n : SlotId) (v : Byte) : QueuesLaw (takeBusy n v s) := by
  unfold takeBusy
  split
  · exact h
  · next sl hw =>
    obtain ⟨hs, hp⟩ := slotWhen_underway rfl hw
    have hbusy : QueuesLaw (busyPeer sl.dest s) := h.of_ts rfl
    refine queuesLaw_reevaluate ?_
    split
    · exact queuesLaw_completeSlot hbusy hs hp _ _
    · split
      · exact queuesLaw_completeSlot hbusy hs hp _ _
      · exact queuesLaw_requeueFront hbusy hs hp _

theorem queuesLaw_failCandidate (h : QueuesLaw s) : QueuesLaw (failCandidate s) := by
  unfold failCandidate
  split
  · exact h
  · exact queuesLaw_takeNoResponse h _

theorem queuesLaw_judgeCandidate (h : QueuesLaw s) (r : Rx) : QueuesLaw (judgeCandidate r s) := by
  unfold judgeCandidate
  split
  · exact h
  · split
    · exact h
    · split
      · split
        · exact queuesLaw_takeAck h _
        · exact queuesLaw_takeBusy h _ _
      · exact queuesLaw_takeNoResponse h _

theorem queuesLaw_reportCandidate (h : QueuesLaw s) (how : Ending) (r : Rx) :
    QueuesLaw (reportCandidate how r s) := by
  unfold reportCandidate
  split
  · exact queuesLaw_judgeCandidate h r
  · exact queuesLaw_failCandidate h

theorem queuesLaw_releasePeer (h : QueuesLaw s) (node : Nat) : QueuesLaw (releasePeer node s) :=
  queuesLaw_reevaluate (h.of_ts rfl)

/-! ### The end of a reception -/

theorem queuesLaw_dealGood (h : QueuesLaw s) (r : Rx) : QueuesLaw (dealGood r s) := by
  unfold dealGood
  split
  · exact h
  · exact h
  · rcases takeReady_cases r s with e | e <;> rw [e]
    · exact h
    · exact queuesLaw_releasePeer h _
  · split
    · exact h.of_ts rfl
    · dsimp only
      split <;> exact h.of_ts (by simp)
  · split <;> exact h.of_ts (by simp)

theorem queuesLaw_endReception (h : QueuesLaw s) (how : Ending) : QueuesLaw (endReception how s) :=
  endReception_stages h (h.of_ts (by simp)) (fun r _ hu => queuesLaw_reportCandidate hu how r)
    (fun r _ hu => queuesLaw_dealGood hu r) (fun _ _ _ hu => hu.of_ts (by simp)) fun _ hu => queuesLaw_reevaluate hu

/-! ### Marks of the quiet count, and start bits -/

theorem queuesLaw_closeAtDeadline (h : QueuesLaw s) : QueuesLaw (closeAtDeadline s) := by
  unfold closeAtDeadline
  split
  · exact h
  · refine queuesLaw_takeNoResponse ?_ _
    exact h.of_ts rfl

theorem queuesLaw_takeMarks (h : QueuesLaw s) : QueuesLaw (takeMarks s) :=
  takeMarks_stages h (fun _ _ hu => hu.of_ts rfl) (fun _ hu _ => queuesLaw_endReception hu _)
    (fun _ hu _ => queuesLaw_closeAtDeadline hu) fun _ hu => hu.of_ts rfl

theorem queuesLaw_takeStartBit (h : QueuesLaw s) : QueuesLaw (takeStartBit s) := by
  unfold takeStartBit
  split
  · split
    · unfold takeStray strayCandidate
      split
      · exact h.of_ts (by simp)
      · exact queuesLaw_failCandidate (h.of_ts (by simp))
    · exact h.of_ts (by simp)
  all_goals exact h.of_ts rfl

/-! ### The READY notice and congestion -/

theorem queuesLaw_buildNotice (h : QueuesLaw s) : QueuesLaw (buildNotice s) := by
  unfold buildNotice
  split
  · exact h
  · exact queuesLaw_reevaluate (h.of_ts rfl)

theorem queuesLaw_testExit (h : QueuesLaw s) : QueuesLaw (testExit s) := by
  unfold testExit leaveCongestion
  split
  · dsimp only
    split
    · exact h.of_ts rfl
    · exact queuesLaw_buildNotice (h.of_ts rfl)
  · exact h

theorem queuesLaw_testMarks (h : QueuesLaw s) : QueuesLaw (testMarks s) := by
  unfold testMarks
  split
  · exact queuesLaw_testExit h
  · exact h.of_ts (by simp)

/-! ### A character -/

variable {b : Byte} {r : Rx}

theorem queuesLaw_takeFourth (h : QueuesLaw s) : QueuesLaw (takeFourth b r s) := by
  unfold takeFourth
  split
  · exact h.of_ts rfl
  · exact h.of_ts rfl
  · split
    · exact queuesLaw_endReception h _
    · exact h.of_ts rfl
  all_goals
    split
    · exact queuesLaw_endReception h _
    · dsimp only
      split <;> exact h.of_ts (by simp [enterBody])

theorem queuesLaw_takeHeader (h : QueuesLaw s) : QueuesLaw (takeHeader b r s) := by
  unfold takeHeader takeLead takeControl takeDest
  split
  · dsimp only
    split
    · exact queuesLaw_endReception h _
    · exact h.of_ts rfl
  · split
    · exact queuesLaw_endReception h _
    · exact h.of_ts rfl
  · split
    · exact h.of_ts rfl
    · exact queuesLaw_endReception h _
  · exact queuesLaw_takeFourth h

/-- A payload or list character touches no slot. -/
theorem takeBody_ts {t : State} (ht : takeBody b r s = some t) : t.ts = s.ts := by
  have hdone (x : Rx) (u : State) : (bodyDone x u).ts = u.ts := by unfold bodyDone; split <;> rfl
  unfold takeBody at ht
  split at ht
  · cases ht; exact hdone _ _
  · split at ht
    · obtain ⟨u, hu, rfl⟩ := Option.map_eq_some_iff.mp ht
      obtain ⟨a, _, rfl⟩ := Option.map_eq_some_iff.mp hu
      exact hdone _ _
    · cases ht; exact hdone _ _

theorem queuesLaw_takeCheck (h : QueuesLaw s) : QueuesLaw (takeCheck b r s) := by
  obtain ⟨first, hfirst⟩ : ∃ first, takeCheck b r s =
      if r.count ≤ first then setRecord { r with checkHigh := b } s
      else endReception (if checkChars r.crc = [r.checkHigh, b] then .good else .badCheck) s := ⟨_, rfl⟩
  rw [hfirst]
  split
  · exact h.of_ts rfl
  · exact queuesLaw_endReception h _

theorem queuesLaw_takeComplete {t : State} (h : QueuesLaw s) (ht : takeComplete b r s = some t) : QueuesLaw t := by
  unfold takeComplete at ht
  dsimp only at ht
  split at ht
  · cases ht; exact queuesLaw_takeHeader (h.of_ts rfl)
  · exact h.of_ts (by rw [takeBody_ts ht]; rfl)
  · cases ht; exact queuesLaw_takeCheck (h.of_ts rfl)
  · cases ht; exact h

theorem queuesLaw_takeCharacter {t : State} {stop : LineBit} (h : QueuesLaw s)
    (ht : takeCharacter b stop r s = some t) : QueuesLaw t := by
  have hquiet (q : Nat) : QueuesLaw { s with lac := { s.lac with quiet := q } } := h.of_ts rfl
  unfold takeCharacter at ht
  split at ht
  · cases ht; exact queuesLaw_endReception (hquiet _) _
  · exact queuesLaw_takeComplete (hquiet _) ht

end

end Sys2Proof.Machine
end

section
/-! SUPPORT. LAC's own rows, the commands and the resets keep the law of the queues, and so does every step. -/

namespace Sys2Proof.Machine

open Sys2Proof

variable {s t : State} {n : SlotId} {sl : Slot}

/-! ### LAC's own rows -/

/-- The offered slot is committed and leaves its class queue (R76). -/
theorem queuesLaw_commitOffer (h : QueuesLaw s) (o : Offer) (chars : List Byte) :
    QueuesLaw (commitOffer o chars s) := by
  unfold commitOffer
  split
  · exact h.of_ts rfl
  · split
    · exact h.of_ts rfl
    · next n sl hw =>
      obtain ⟨hs, hp⟩ := slotWhen_eq_some.mp hw
      exact h.replace rfl
        (h.queues_leave (sl := sl) hs (queuePlaces_of_not_waits (by rintro _ ⟨⟩; rfl)) rfl)
        (h.completion_stays rfl
          ((completionPlaces_of_not_done (by rintro _ ⟨⟩; rfl)).trans
            (completionPlaces_of_not_done fun x hx => by
              obtain rfl := Option.some.inj (hs.symm.trans hx)
              rw [hp]; rfl).symm))

/-- The slot whose lead is lost stands in its class queue again (R70). -/
theorem queuesLaw_returnOffer (h : QueuesLaw s) (src : BurstSource) : QueuesLaw (returnOffer src s) := by
  unfold returnOffer
  split
  · exact h
  · exact h.of_ts rfl
  · next n ahead =>
    split
    · exact h
    · next sl hw =>
      obtain ⟨hs, hp⟩ := slotWhen_underway rfl hw
      have hbehind (q : List SlotId) :
          (q.takeWhile (fun m => ahead.contains m) ++
            n :: q.drop (q.takeWhile fun m => ahead.contains m).length).Perm (n :: q) := by
        refine List.perm_middle.trans (.cons n ?_)
        exact .of_eq (List.prefix_iff_eq_append.mp (List.takeWhile_prefix _))
      exact h.replace (r := some { sl with phase := .offered }) rfl
        (h.queues_join (queuePlaces_of_underway hs hp) rfl rfl (hbehind _))
        (h.completion_stays rfl (by rw [completionPlaces_of_underway hs hp]; rfl))

theorem queuesLaw_loseLead (h : QueuesLaw s) (b : Burst) (k : Nat) : QueuesLaw (loseLead b k s) :=
  queuesLaw_reevaluate (queuesLaw_returnOffer (h.of_ts (by simp)) _)

theorem queuesLaw_reportCut (h : QueuesLaw s) (src : BurstSource) : QueuesLaw (reportCut src s) := by
  unfold reportCut
  split
  · exact h
  · exact h.of_ts rfl
  · exact queuesLaw_endEchoFault h _

/-- TS on leaving ONLINE or LOOP (R90). -/
theorem queuesLaw_stopScheduler (h : QueuesLaw s) : QueuesLaw (stopScheduler s) := by
  have hcut : QueuesLaw (cutSlot (withdrawOffer s)) := by
    unfold cutSlot
    split
    · exact queuesLaw_endCut (queuesLaw_withdrawOffer h) _
    · exact queuesLaw_withdrawOffer h
  have hclosed : QueuesLaw (closeWindow (cutSlot (withdrawOffer s))) := by
    unfold closeWindow
    split
    · exact hcut
    · exact queuesLaw_endUnanswered hcut _
  rw [stopScheduler, returnNotice_eq]
  exact hclosed.of_ts rfl

theorem queuesLaw_leaveLine (h : QueuesLaw s) (target : Station) : QueuesLaw (leaveLine target s) := by
  have hstopped : QueuesLaw (stopScheduler (setStation target s)) := queuesLaw_stopScheduler (h.of_ts rfl)
  exact hstopped.of_ts (by simp [leaveLine])

theorem queuesLaw_takeEchoFault (h : QueuesLaw s) (b : Burst) (k : Nat) : QueuesLaw (takeEchoFault b k s) := by
  have hlimit : ∀ u, QueuesLaw u → QueuesLaw (applyFaultLimit u) := by
    intro u hu
    unfold applyFaultLimit
    split
    · exact (queuesLaw_leaveLine hu .silent).of_ts rfl
    · exact hu
  exact queuesLaw_reevaluate (hlimit _ (queuesLaw_reportCut (h.of_ts (by simp)) _))

/-- A slot's frame has been sent completely (R78): DONE SENT, or AWAITING. -/
theorem queuesLaw_slotSent (h : QueuesLaw s) (n : SlotId) : QueuesLaw (slotSent n s) := by
  unfold slotSent
  split
  · exact h
  · next sl hw =>
    obtain ⟨hs, hp⟩ := slotWhen_underway rfl hw
    have hdemoted : QueuesLaw (demote sl.cls s) := h.of_ts rfl
    dsimp only
    split
    · exact queuesLaw_completeSlot hdemoted hs hp _ _
    · refine h.rewrite (r := some { sl with phase := .awaiting }) rfl rfl rfl (fun c => ?_) ?_
      · rw [queuePlaces_of_underway hs hp]
        exact queuePlaces_of_not_waits (by rintro _ ⟨⟩; rfl) c
      · rw [completionPlaces_of_underway hs hp]; rfl

theorem queuesLaw_reportSent (h : QueuesLaw s) (src : BurstSource) : QueuesLaw (reportSent src s) := by
  unfold reportSent
  split
  · exact h
  · exact h.of_ts (by simp)
  · exact queuesLaw_slotSent h _

/-! ### Commands -/

theorem QueuesLaw.answered (h : QueuesLaw s) (c : Cst) (r : Quad) : QueuesLaw (answer c r s) := h.of_ts rfl

/-- A slot is taken (R67). -/
theorem queuesLaw_allocateBody (h : QueuesLaw s) : QueuesLaw (allocateBody s) := by
  unfold allocateBody
  dsimp only
  split
  · exact h.answered _ _
  · split
    · exact h.answered _ _
    · next n hfree =>
      split
      · exact h.answered _ _
      · have hnone : slotAt s n = none := by simpa using List.find?_some hfree
        refine h.rewrite (n := n) rfl rfl rfl (fun c => ?_) ?_
        · rw [hnone]
          exact queuePlaces_of_not_waits (by rintro _ ⟨⟩; rfl) c
        · rw [hnone]; rfl

/-- A LOADING slot joins the tail of its class queue (R68). -/
theorem queuesLaw_submitBody (h : QueuesLaw s) : QueuesLaw (submitBody s) := by
  unfold submitBody
  split
  · exact h.answered _ _
  · next n _ =>
    split
    · exact h.answered _ _
    · next sl hs =>
      split
      · exact h.answered _ _
      · next hp =>
        rw [ne_eq, not_not] at hp
        have hrecord : ∀ x, slotAt s n = some x → x.phase = .loading := fun x hx => by
          rw [← hp, Option.some.inj (hs.symm.trans hx)]
        refine (queuesLaw_reevaluate ?_).answered _ _
        refine h.replace (n := n) rfl (h.queues_join ?_ rfl rfl (List.perm_append_singleton _ _)) ?_
        · exact queuePlaces_of_not_waits fun x hx => by rw [hrecord x hx]; rfl
        · refine h.completion_stays rfl (Eq.symm ?_)
          exact completionPlaces_of_not_done fun x hx => by rw [hrecord x hx]; rfl

theorem queuesLaw_cutByAbort (h : QueuesLaw s) : QueuesLaw (cutByAbort s) := by
  have hstopped : QueuesLaw (stopBurst .quiet { s with lac := { s.lac with path := [] } }) := h.of_ts rfl
  unfold cutByAbort
  dsimp only
  split
  · exact h
  · split
    · exact (queuesLaw_endReception hstopped .truncated).of_ts rfl
    · exact hstopped.of_ts (by simp)

theorem queuesLaw_abortSlot (h : QueuesLaw s) (hs : slotAt s n = some sl) : QueuesLaw (abortSlot n sl s) := by
  unfold abortSlot
  split
  · next hp =>
    refine (queuesLaw_reevaluate ?_).answered _ _
    refine h.rewrite (n := n) (r := none) rfl rfl rfl (fun c => ?_) ?_
    · rw [hs, queuePlaces_some, hp]; simp [SlotPhase.waits, queuePlaces]
    · rw [hs, completionPlaces_some, hp]; rfl
  · next hp =>
    exact (queuesLaw_reevaluate (queuesLaw_completeSlot_dequeue h hs (by rw [hp]; rfl) _)).answered _ _
  · next hp =>
    have hwithdrawn : QueuesLaw { s with lac := { s.lac with offer := none } } := h.of_ts rfl
    exact (queuesLaw_reevaluate (queuesLaw_completeSlot_dequeue hwithdrawn hs (by rw [hp]; rfl) _)).answered _ _
  · exact (queuesLaw_reevaluate (queuesLaw_endAborted (queuesLaw_cutByAbort h) _)).answered _ _
  · refine h.rewrite (n := n) (r := some { sl with abortPending := true }) rfl rfl rfl (fun c => ?_) ?_
    · rw [hs]; rfl
    · rw [hs]; rfl
  · exact h.answered _ _

/-- The slot at the front of the completion list is FREE (R86). -/
theorem queuesLaw_collectBody (h : QueuesLaw s) : QueuesLaw (collectBody s) := by
  cases hlist : s.ts.completion with
  | nil => rw [collectBody_of_empty hlist]; exact h.answered _ _
  | cons n rest =>
    obtain ⟨sl, hs, hdone⟩ := (h.2.2 n).mp (by simp [hlist])
    obtain ⟨o, ho⟩ := Option.isSome_iff_exists.mp hdone
    have hp : sl.phase = .done o := by cases hp : sl.phase <;> simp_all [SlotPhase.outcome]
    rw [collectBody_of_done hlist hs hp]
    refine h.replace (n := n) (r := none) rfl (h.queues_stay rfl fun c => ?_) (h.completion_leaves rfl hlist)
    rw [hs, queuePlaces_some, hp]
    simp [SlotPhase.waits, queuePlaces]

theorem queuesLaw_goOnlineBody (h : QueuesLaw s) : QueuesLaw (goOnlineBody s) := by
  unfold goOnlineBody
  split
  · exact h.answered _ _
  · refine (queuesLaw_reevaluate ?_).answered _ _
    unfold goOnlineChange
    split
    · exact h.of_ts rfl
    · exact h.of_ts rfl
    · exact h.of_ts rfl
    · exact h.of_ts rfl
    · refine queuesLaw_leaveLine ?_ _
      exact h.of_ts rfl

theorem queuesLaw_goListenBody (h : QueuesLaw s) : QueuesLaw (goListenBody s) := by
  unfold goListenBody
  refine QueuesLaw.answered ?_ _ _
  split
  · exact h.of_ts rfl
  · exact h
  · exact h.of_ts rfl
  · exact queuesLaw_leaveLine h _
  · exact queuesLaw_leaveLine h _

theorem queuesLaw_goOfflineBody (h : QueuesLaw s) : QueuesLaw (goOfflineBody s) := by
  unfold goOfflineBody
  refine QueuesLaw.answered (QueuesLaw.of_ts (s := ?_) ?_ rfl) _ _
  split
  · exact h
  · exact h.of_ts (by simp)
  · exact h.of_ts (by simp)
  · exact queuesLaw_leaveLine h _
  · exact queuesLaw_leaveLine h _

/-- No slot is taken and no list names one. -/
theorem queuesLaw_of_reset (h : s.ts = .reset) : QueuesLaw s := by
  refine queuesLaw_of_counts (fun c n => ?_) fun n => ?_ <;>
    simp [slotAt, h, Ts.reset, queuePlaces, completionPlaces]

theorem queuesLaw_commandBody (h : QueuesLaw s) (c : HostCommand) : QueuesLaw (commandBody c s) := by
  cases c with
  | allocate => exact queuesLaw_allocateBody h
  | submit => exact queuesLaw_submitBody h
  | abort =>
    simp only [commandBody, abortBody]
    split
    · exact h.answered _ _
    · split
      · exact h.answered _ _
      · next hs => exact queuesLaw_abortSlot h hs
  | collect => exact queuesLaw_collectBody h
  | release =>
    simp only [commandBody, releaseBody]
    split
    · exact h.answered _ _
    · exact (queuesLaw_testExit (h.of_ts (by simp))).answered _ _
  | flush =>
    refine (queuesLaw_testExit ?_).answered _ _
    split <;> exact h.of_ts (by simp)
  | resume =>
    refine QueuesLaw.answered ?_ _ _
    split
    · exact queuesLaw_buildNotice (h.of_ts rfl)
    · exact h.of_ts rfl
  | forget =>
    simp only [commandBody, forgetBody]
    split
    · exact h.answered _ _
    · split
      · exact h.answered _ _
      · split
        · exact h.answered _ _
        · refine QueuesLaw.answered ?_ _ _
          split
          · exact queuesLaw_reevaluate (h.of_ts rfl)
          · exact h.of_ts rfl
  | goOnline => exact queuesLaw_goOnlineBody h
  | goListen => exact queuesLaw_goListenBody h
  | goLoop =>
    simp only [commandBody, goLoopBody]
    split
    · refine (queuesLaw_reevaluate ?_).answered _ _
      exact h.of_ts rfl
    · exact h.answered _ _
  | goOffline => exact queuesLaw_goOfflineBody h
  | clear => exact queuesLaw_of_reset rfl
  | pause | queryPeer | join | leave | setAddress | clearCounters => exact h.of_ts (by simp [commandBody])

theorem queuesLaw_lineEvent {holds : Bool} {f : State → State} (h : QueuesLaw s)
    (ht : lineEvent holds f s = .next t) (hf : QueuesLaw (f s)) : QueuesLaw t := by
  rcases lineEvent_cases ht with rfl | ⟨_, _, rfl⟩
  · exact h
  · exact hf

/-! ### The rows of the host port -/

theorem queuesLaw_hostAccess {f : State → State} (h : QueuesLaw s) (ht : hostAccess f s = .next t)
    (hf : QueuesLaw (f s)) : QueuesLaw t := by
  unfold hostAccess at ht
  split at ht <;> cases ht
  · exact h
  · exact hf

theorem queuesLaw_command (c : HostCommand) (code : Byte) (h : QueuesLaw s)
    (ht : hostAccess (fun u => commandBody c (recordCode code u)) s = .next t) : QueuesLaw t :=
  queuesLaw_hostAccess (f := fun u => commandBody c (recordCode code u)) h ht
    (queuesLaw_commandBody (h.of_ts (t := recordCode code s) rfl) c)

theorem queuesLaw_hostRead {f : State → State} (h : QueuesLaw s) (ht : hostRead f s = .next t)
    (hf : QueuesLaw (f s)) : QueuesLaw t := by
  unfold hostRead at ht
  split at ht <;> cases ht
  · exact h.of_ts rfl
  · exact hf

theorem readWindata_ts (ht : readWindata s = .next t) : t.ts = s.ts := by
  unfold readWindata at ht
  split at ht
  · cases ht; rfl
  · split at ht <;> cases ht
    rfl

theorem writeWindata_ts {v : Byte} (ht : writeWindata v s = .next t) : t.ts = s.ts := by
  unfold writeWindata at ht
  split at ht
  · cases ht; rfl
  · split at ht <;> cases ht
    next hstore =>
      obtain ⟨a, _, rfl⟩ := Option.map_eq_some_iff.mp hstore
      rfl

/-- A register write that is refused raises CONFIG_ERROR alone. -/
theorem queuesLaw_ite_configError {p : Prop} [Decidable p] {u : State} (h : QueuesLaw s) (hu : QueuesLaw u) :
    QueuesLaw (if p then u else raiseConfigError s) := by
  split
  · exact hu
  · exact h.of_ts rfl

theorem queuesLaw_writeRegister {r : Register} {v : Byte} (h : QueuesLaw s) (ht : writeRegister r v s = .next t) :
    QueuesLaw t := by
  cases r with
  | cmd =>
    cases ht
    unfold writeCmd
    split
    · exact h.of_ts rfl
    · exact queuesLaw_commandBody (h.of_ts (t := recordCode v s) rfl) _
  | windata => exact h.of_ts (writeWindata_ts ht)
  | winsel => cases ht; unfold writeWinsel; split <;> exact h.of_ts rfl
  | winofs => cases ht; unfold writeWinofs; split <;> exact h.of_ts rfl
  | cntsel => cases ht; unfold writeCntsel; split <;> exact h.of_ts rfl
  | hiwat | lowat =>
    cases ht
    refine queuesLaw_ite_configError h (queuesLaw_testMarks ?_)
    exact h.of_ts rfl
  | divh | rxtrig | stale | retry | reserve | holdoff | faultlim =>
    cases ht
    refine queuesLaw_ite_configError h ?_
    exact h.of_ts rfl
  | _ => cases ht; exact h.of_ts rfl

/-- A row of the host port, and the end of the stale timer, moves no slot but as its command does. -/
theorem queuesLaw_hostRow {i : Instr} (h : QueuesLaw s) (hi : movesLine i = false) (ht : exec i s = .next t) :
    QueuesLaw t := by
  cases i with
  | allocate => exact queuesLaw_command .allocate _ h ht
  | submit => exact queuesLaw_command .submit _ h ht
  | abort => exact queuesLaw_command .abort _ h ht
  | collect => exact queuesLaw_command .collect _ h ht
  | release => exact queuesLaw_command .release _ h ht
  | flush => exact queuesLaw_command .flush _ h ht
  | pause => exact queuesLaw_command .pause _ h ht
  | resume => exact queuesLaw_command .resume _ h ht
  | forget => exact queuesLaw_command .forget _ h ht
  | queryPeer => exact queuesLaw_command .queryPeer _ h ht
  | join => exact queuesLaw_command .join _ h ht
  | leave => exact queuesLaw_command .leave _ h ht
  | goOnline => exact queuesLaw_command .goOnline _ h ht
  | goListen => exact queuesLaw_command .goListen _ h ht
  | goLoop => exact queuesLaw_command .goLoop _ h ht
  | goOffline => exact queuesLaw_command .goOffline _ h ht
  | setAddress => exact queuesLaw_command .setAddress _ h ht
  | clear => exact queuesLaw_command .clear _ h ht
  | clearCounters => exact queuesLaw_command .clearCounters _ h ht
  | unknownCommand code => exact queuesLaw_hostAccess h ht (queuesLaw_writeRegister (r := .cmd) h rfl)
  | stnRead | rxstatRead | flowRead | hstatRead | cntlRead =>
    refine queuesLaw_hostRead h ht ?_
    exact h.of_ts rfl
  | windataRead =>
    simp only [exec, execWindataRead] at ht
    split at ht
    · cases ht; exact h.of_ts rfl
    · exact h.of_ts (readWindata_ts ht)
  | windataWrite v =>
    simp only [exec, execWindataWrite] at ht
    split at ht
    · cases ht; exact h
    · exact h.of_ts (writeWindata_ts ht)
  | winselWrite v => exact queuesLaw_hostAccess h ht (queuesLaw_writeRegister (r := .winsel) h rfl)
  | winofsWrite v => exact queuesLaw_hostAccess h ht (queuesLaw_writeRegister (r := .winofs) h rfl)
  | cntselWrite v => exact queuesLaw_hostAccess h ht (queuesLaw_writeRegister (r := .cntsel) h rfl)
  | intenWrite v => exact queuesLaw_hostAccess h ht (queuesLaw_writeRegister (r := .inten) h rfl)
  | divlWrite v => exact queuesLaw_hostAccess h ht (queuesLaw_writeRegister (r := .divl) h rfl)
  | divhWrite v => exact queuesLaw_hostAccess h ht (queuesLaw_writeRegister (r := .divh) h rfl)
  | hiwatWrite v => exact queuesLaw_hostAccess h ht (queuesLaw_writeRegister (r := .hiwat) h rfl)
  | lowatWrite v => exact queuesLaw_hostAccess h ht (queuesLaw_writeRegister (r := .lowat) h rfl)
  | rxtrigWrite v => exact queuesLaw_hostAccess h ht (queuesLaw_writeRegister (r := .rxtrig) h rfl)
  | staleWrite v => exact queuesLaw_hostAccess h ht (queuesLaw_writeRegister (r := .stale) h rfl)
  | registerWrite o v =>
    simp only [exec, execRegisterWrite] at ht
    split at ht
    · cases ht; exact h
    · split at ht
      · cases ht; exact h
      · exact queuesLaw_writeRegister h ht
  | staleTimerExpiry =>
    simp only [exec, execStaleTimerExpiry] at ht
    refine queuesLaw_lineEvent h ht ?_
    exact h.of_ts rfl
  | _ => simp [movesLine] at hi

/-! ### Every step -/

/-- A character comes from the internal path, or from the line with the marks of the quiet count taken. -/
theorem queuesLaw_arrivingCharacter {v c : Byte} {stop st : LineBit} {u : State} (h : QueuesLaw s)
    (ha : arrivingCharacter v stop s = some (c, st, u)) : QueuesLaw u := by
  unfold arrivingCharacter at ha
  split at ha
  · cases ha
  · split at ha <;> cases ha
    exact h.of_ts rfl
  · split at ha <;> cases ha
    split
    · exact h
    · exact queuesLaw_takeMarks h

theorem queuesLaw_characterReceived {v : Byte} {stop : LineBit} (h : QueuesLaw s)
    (ht : exec (.characterReceived v stop) s = .next t) : QueuesLaw t := by
  simp only [exec, execCharacterReceived] at ht
  split at ht
  · cases ht; exact h
  split at ht
  · cases ht; exact h
  next c st u harrives =>
    have hu : QueuesLaw u := queuesLaw_arrivingCharacter h harrives
    split at ht
    · split at ht <;> cases ht
      exact queuesLaw_takeCharacter hu (by assumption)
    · split at ht <;> cases ht
      · exact hu.of_ts rfl
      · exact h

theorem queuesLaw_exec {i : Instr} (h : QueuesLaw s) (ht : exec i s = .next t) : QueuesLaw t := by
  by_cases hi : movesLine i = true
  case neg => exact queuesLaw_hostRow h (by simpa using hi) ht
  cases i with
  | resetAsserted | resetReleased | powerUp => cases ht; exact queuesLaw_of_reset rfl
  | startBit =>
    rw [exec, execStartBit] at ht
    exact queuesLaw_lineEvent h ht (queuesLaw_takeStartBit (queuesLaw_takeMarks h))
  | characterReceived v stop => exact queuesLaw_characterReceived h ht
  | gapGuardClear =>
    rw [exec, execGapGuardClear] at ht
    refine queuesLaw_lineEvent h ht ?_
    exact h.of_ts rfl
  | gapLimitRecover =>
    rw [exec, execGapLimitRecover] at ht
    refine queuesLaw_lineEvent h ht ?_
    exact h.of_ts rfl
  | gapLimitTruncation =>
    rw [exec, execGapLimitTruncation] at ht
    refine queuesLaw_lineEvent h ht (queuesLaw_endReception ?_ _)
    exact h.of_ts rfl
  | demotionClear c =>
    rw [exec, execDemotionClear] at ht
    refine queuesLaw_lineEvent h ht ?_
    exact h.of_ts rfl
  | leadStart =>
    rcases exec_leadStart_cases ht with rfl | ⟨o, chars, _, _, _, rfl⟩
    · exact h
    · exact queuesLaw_commitOffer (h.of_ts (by simp)) o chars
  | contentionLost k =>
    rcases exec_contentionLost_cases ht with rfl | ⟨b, _, _, _, rfl⟩
    · exact h
    · exact queuesLaw_loseLead h b k
  | leadWon =>
    rcases exec_leadWon_cases ht with rfl | ⟨b, _, _, rfl⟩
    · exact h
    · exact h.of_ts rfl
  | echoFault k =>
    rcases exec_echoFault_cases ht with rfl | ⟨b, _, _, _, rfl⟩
    · exact h
    · exact queuesLaw_takeEchoFault h b k
  | frameSent =>
    rcases exec_frameSent_cases ht with rfl | ⟨b, _, _, rfl⟩
    · exact h
    · exact queuesLaw_reevaluate (queuesLaw_reportSent (h.of_ts (by simp)) _)
  | responseStart =>
    rcases exec_responseStart_cases ht with rfl | ⟨chars, u, _, _, rfl, rfl⟩
    · exact h
    · have hreach : QueuesLaw (reachQuiet Config.responseGap s) := h.of_ts rfl
      exact (queuesLaw_takeMarks hreach).of_ts (by simp)
  | responseSent =>
    rcases exec_responseSent_cases ht with rfl | ⟨b, _, _, rfl⟩
    · exact h
    · exact queuesLaw_reevaluate (h.of_ts (by simp))
  | noResponse =>
    rcases exec_noResponse_cases ht with rfl | ⟨_, rfl⟩
    · exact h
    · exact queuesLaw_closeAtDeadline (h.of_ts rfl)
  | holdoffExpiry node => exact queuesLaw_lineEvent h ht (queuesLaw_releasePeer h node)
  | dominantBitInRecover =>
    rw [exec, execDominantBitInRecover] at ht
    refine queuesLaw_lineEvent h ht ?_
    exact (queuesLaw_takeMarks h).of_ts rfl
  | _ => simp [movesLine] at hi

/-- With nothing waiting the part touches no slot. -/
theorem idle_ts (s : State) : (idle s).ts = s.ts := by
  unfold idle bitTime tickLine
  split
  · split
    · rfl
    · split
      · rfl
      · split <;> rfl
  · rfl

/-- Settles O9: each operation that replaces a slot's record moves its places with it, so every row does. -/
theorem queuesNameTheirSlots : Obligations.QueuesNameTheirSlots := by
  intro s t h ht
  unfold step at ht
  split at ht
  · cases ht; exact h.of_ts (idle_ts s)
  · next c rest _ => exact queuesLaw_exec (h.of_ts (t := { s with pending := rest }) rfl) ht

end Sys2Proof.Machine
end

section
/-! SUPPORT. ALLOCATE, SUBMIT and ABORT: the slot an argument names, each command's answer by its tests, and the
effect of the one that is taken (R66 to R68, R87). -/

namespace Sys2Proof.Machine

open Sys2Proof

variable {s u : State} {n : SlotId} {sl : Slot}

/-! ### The slot an argument names -/

theorem slotIdOf_of_large {v : Byte} (h : 15 < v.toNat) : slotIdOf v = none :=
  dif_neg (by omega)

theorem slotIdOf_byteOf (n : SlotId) : slotIdOf (byteOf n.val) = some n := by
  have hval : (byteOf n.val).toNat = n.val := by
    rw [byteOf, BitVec.toNat_ofNat]
    omega
  simp [slotIdOf, hval]

/-! ### SUBMIT -/

/-- A slot's record as SUBMIT leaves it (R68). -/
def Slot.submitted (sl : Slot) : Slot :=
  { sl with
    phase := .queued, attempts := 0, busyCount := 0, reason := none, uncertain := false, abortPending := false }

theorem exec_submit (h : s.resetLow = false) : exec .submit s = .next (submitBody (recordCode 0x11 s)) := by
  rw [exec, execSubmit, hostAccess_of_high _ h]

theorem submitBody_of_large (h : 15 < u.hp.args.b0.toNat) : submitBody u = answerBare .badArgument u := by
  simp only [submitBody, slotIdOf_of_large h]

theorem submitBody_of_not_loading (hb : u.hp.args.b0 = byteOf n.val)
    (h : ∀ sl, slotAt u n = some sl → sl.phase ≠ .loading) : submitBody u = answerBare .badState u := by
  simp only [submitBody, hb, slotIdOf_byteOf]
  split
  · rfl
  · next sl hs => exact if_pos (h sl hs)

theorem submitBody_of_loading (hb : u.hp.args.b0 = byteOf n.val) (hs : slotAt u n = some sl)
    (hp : sl.phase = .loading) :
    submitBody u = answerBare .ok (reevaluate (enqueueTail sl.cls n (setSlot n (some sl.submitted) u))) := by
  simp only [submitBody, hb, slotIdOf_byteOf, hs, hp]
  rfl

/-- Settles O20: the number, then the state, then the class queue. -/
theorem submitQueuesALoadedSlot : Obligations.SubmitQueuesALoadedSlot := by
  intro s hhigh
  rw [exec_submit hhigh]
  refine ⟨fun hlarge => ?_, fun n hb => ⟨fun hother => ?_, fun sl hs hp => ⟨_, rfl, ?_⟩⟩⟩
  · rw [submitBody_of_large (u := recordCode 0x11 s) hlarge]
    rfl
  · rw [submitBody_of_not_loading (u := recordCode 0x11 s) hb hother]
    rfl
  · rw [submitBody_of_loading (u := recordCode 0x11 s) hb hs hp]
    exact (reevaluate_spec _).answer .ok .zero

/-! ### ALLOCATE -/

theorem msgKindOf_of {v : Byte} {k : MsgKind} (h : v.toNat = match k with | .data => 1 | .datagram => 2) :
    msgKindOf v = some k := by
  cases k <;> simp_all [msgKindOf]

theorem msgKindOf_of_other {v : Byte} (h : ¬ (v = 1 ∨ v = 2)) : msgKindOf v = none := by
  have hdata : v.toNat ≠ 1 := fun e => h (.inl (BitVec.eq_of_toNat_eq e))
  have hdatagram : v.toNat ≠ 2 := fun e => h (.inr (BitVec.eq_of_toNat_eq e))
  simp only [msgKindOf]

theorem classOf_toNat (c : Sys2Proof.Class) : classOf c.toNat = c := by
  cases c <;> rfl

theorem toNat_classOf {m : Nat} (h : m ≤ 3) : (classOf m).toNat = m := by
  interval_cases m <;> rfl

/-- Fitting arguments name a kind and a class. -/
theorem AllocateFits.names {a : Quad} (h : AllocateFits a) :
    ∃ (k : MsgKind) (c : Sys2Proof.Class),
      (a.b3.toNat = match k with | .data => 1 | .datagram => 2) ∧ c.toNat = a.b1.toNat := by
  obtain ⟨hkind, _, hcls, _, _⟩ := h
  rcases hkind with hk | hk
  · exact ⟨.data, _, by rw [hk]; rfl, toNat_classOf hcls⟩
  · exact ⟨.datagram, _, by rw [hk]; rfl, toNat_classOf hcls⟩

/-- Fitting arguments give the kind and the class that they name (R66). -/
theorem allocateArguments_of_fits {a : Quad} {k : MsgKind} {c : Sys2Proof.Class} (h : AllocateFits a)
    (hk : a.b3.toNat = match k with | .data => 1 | .datagram => 2) (hc : c.toNat = a.b1.toNat) :
    allocateArguments a = some (k, c) := by
  obtain ⟨_, hlen, hcls, hdest, hdata⟩ := h
  have hnode : ¬ (k = .data ∧ a.b2.toNat > Config.maxNode) := by
    rintro ⟨rfl, hgt⟩
    have hone : a.b3 = 1 := BitVec.eq_of_toNat_eq hk
    exact absurd (hdata hone) (Nat.not_le.mpr hgt)
  simp only [allocateArguments, msgKindOf_of hk, ← hc, classOf_toNat]
  refine if_neg ?_
  rintro (h | h | h | h)
  · exact absurd hlen (Nat.not_le.mpr h)
  · omega
  · exact absurd hdest (Nat.not_le.mpr h)
  · exact hnode h

theorem allocateArguments_of_not_fits {a : Quad} (h : ¬ AllocateFits a) : allocateArguments a = none := by
  unfold allocateArguments
  split
  · rfl
  · next k hk =>
    refine if_pos ?_
    by_contra hfits
    simp only [not_or, not_lt, gt_iff_lt, not_and] at hfits
    obtain ⟨hlen, hcls, hdest, hdata⟩ := hfits
    refine h ⟨?_, hlen, hcls, hdest, fun hone => hdata ?_⟩
    · by_contra hother
      rw [msgKindOf_of_other hother] at hk
      cases hk
    · rw [hone] at hk
      exact (Option.some.inj hk).symm

theorem lowestFree_eq_none (h : ∀ n, slotAt s n ≠ none) : lowestFree s = none :=
  List.find?_eq_none.mpr fun n _ => by simpa using h n

theorem lowestFree_eq_some (h : LowestFree s n) : lowestFree s = some n := by
  obtain ⟨hfree, htaken⟩ := h
  refine List.find?_eq_some_iff_getElem.mpr
    ⟨by simp [hfree], n, by simp [allSlots], by simp [allSlots], fun m hm => ?_⟩
  have hbefore := Option.isSome_iff_ne_none.mpr (htaken ⟨m, by omega⟩ hm)
  simpa [allSlots] using hbefore

/-- What ALLOCATE does with arguments that fit and a FREE slot (R52, R67). -/
theorem allocateBody_of_fits {k : MsgKind} {c : Sys2Proof.Class} (ha : allocateArguments u.hp.args = some (k, c))
    (hfree : lowestFree u = some n) :
    allocateBody u =
      if freeCount u < blocksFor u.hp.args.b0.toNat + u.cfg.reserve then answerBare .noMemory u
      else answerByte .ok (byteOf n.val)
        (setSlot n
          (some (loadedSlot k c u.hp.args.b2.toNat u.hp.args.b0.toNat
            (claimedChain u (blocksFor u.hp.args.b0.toNat))))
          (claimBlocks (blocksFor u.hp.args.b0.toNat) u)) := by
  simp only [allocateBody, ha, hfree]

theorem allocateBody_of_full (h : AllocateFits u.hp.args) (hfull : lowestFree u = none) :
    allocateBody u = answerBare .noSlot u := by
  obtain ⟨k, c, hk, hc⟩ := h.names
  have ha := allocateArguments_of_fits h hk hc
  simp only [allocateBody, ha, hfull]

theorem allocateBody_of_not_fits (h : ¬ AllocateFits u.hp.args) : allocateBody u = answerBare .badArgument u := by
  simp only [allocateBody, allocateArguments_of_not_fits h]

theorem exec_allocate (h : s.resetLow = false) : exec .allocate s = .next (allocateBody (recordCode 0x10 s)) := by
  rw [exec, execAllocate, hostAccess_of_high _ h]

/-- Settles O19: the arguments, then the lowest FREE slot, then the free blocks beside the reserve. -/
theorem allocateByItsTests : Obligations.AllocateByItsTests := by
  intro s hhigh
  rw [exec_allocate hhigh]
  refine ⟨fun hbad => ?_, fun hfits hfull => ?_, fun n k c hfits hfree hk hc => ?_⟩
  · rw [allocateBody_of_not_fits (u := recordCode 0x10 s) hbad]
    rfl
  · rw [allocateBody_of_full (u := recordCode 0x10 s) hfits (lowestFree_eq_none hfull)]
    rfl
  · rw [allocateBody_of_fits (u := recordCode 0x10 s) (allocateArguments_of_fits hfits hk hc)
      (lowestFree_eq_some hfree)]
    refine ⟨fun hshort => congrArg _ (if_pos hshort), fun hroom => congrArg _ (if_neg (Nat.not_lt.mpr hroom))⟩

/-! ### ABORT -/

theorem exec_abort (h : s.resetLow = false) : exec .abort s = .next (abortBody (recordCode 0x12 s)) := by
  rw [exec, execAbort, hostAccess_of_high _ h]

theorem abortBody_of_large (h : 15 < u.hp.args.b0.toNat) : abortBody u = answerBare .badArgument u := by
  simp only [abortBody, slotIdOf_of_large h]

theorem abortBody_of_free (hb : u.hp.args.b0 = byteOf n.val) (hs : slotAt u n = none) :
    abortBody u = answerBare .badState u := by
  simp only [abortBody, hb, slotIdOf_byteOf, hs]

theorem abortBody_of_slot (hb : u.hp.args.b0 = byteOf n.val) (hs : slotAt u n = some sl) :
    abortBody u = abortSlot n sl u := by
  simp only [abortBody, hb, slotIdOf_byteOf, hs]

/-- A slot's end stands beside HP. -/
theorem answer_completeSlot (code : Byte) (c : Cst) (r : Quad) (o : SlotOutcome) (s : State) :
    answer c r (completeSlot n o sl (recordCode code s)) = withResults code c r (completeSlot n o sl s) := by
  rw [completeSlot_eq, completeSlot_eq]
  rfl

/-! #### Dealing with a reception stands beside FR and beside the code of the command -/

/-- A state with another FR and another code of the last command. -/
def beside (f : Fr) (code : Byte) (s : State) : State := recordCode code { s with fr := f }

theorem followHead_beside (f : Fr) (code : Byte) (s : State) :
    followHead (beside f code s) = beside f code (followHead s) := by
  cases hw : s.hp.winSel <;> simp [followHead, beside, recordCode, hw]

theorem testEntry_beside (f : Fr) (code : Byte) (s : State) :
    testEntry (beside f code s) = beside f code (testEntry s) := by
  rw [testEntry, testEntry, apply_ite (beside f code)]
  rfl

theorem restartStale_beside (f : Fr) (code : Byte) (s : State) :
    restartStale (beside f code s) = beside f code (restartStale s) := rfl

theorem appendEntry_beside (e : Entry) (f : Fr) (code : Byte) (s : State) :
    appendEntry e (beside f code s) = beside f code (appendEntry e s) := by
  rw [appendEntry, appendEntry, ← testEntry_beside, ← restartStale_beside, apply_ite (beside f code),
    ← followHead_beside]
  rfl

theorem keepEntry_beside (e : Entry) (chain : List Block) (f : Fr) (code : Byte) (s : State) :
    keepEntry e chain (beside f code s) = beside f code (keepEntry e chain s) :=
  appendEntry_beside _ f code (releaseChain (chain.drop (blocksFor e.length)) s)

theorem dealDamaged_beside (how : Ending) (m : FrMode) (r : Rx) (f : Fr) (code : Byte) (s : State) :
    dealDamaged how m r (beside f code s) = beside f code (dealDamaged how m r s) := by
  have hcount : countEvent .damaged (beside f code s) = beside f code (countEvent .damaged s) := rfl
  have hrelease (chain : List Block) (u : State) :
      releaseChain chain (beside f code u) = beside f code (releaseChain chain u) := rfl
  have htags : damageTags how r (beside f code s) = damageTags how r s := rfl
  have hcfg : (beside f code s).cfg = s.cfg := rfl
  cases ha : r.accepted with
  | none => simp only [dealDamaged, ha, hcount, hrelease]
  | some sort => simp only [dealDamaged, ha, hcount, hrelease, htags, hcfg, keepEntry_beside, apply_ite (beside f code)]

/-! #### The cut of the frame that LAC drives -/

/-- LAC and FR once an ABORT has cut the frame (R35, R97). -/
def abortCut (s : State) : State :=
  { s with
    lac := { s.lac with mode := .quiet, burst := none, path := [] }
    fr := { s.fr with mode := .recover, guard := false, record := none } }

theorem cutByAbort_of_no_record (hdrives : s.lac.mode.drives = true) (hr : s.fr.record = none) :
    cutByAbort s = abortCut s := by
  have hfr : s.fr = { s.fr with record := none } := by rw [← hr]
  simp only [cutByAbort, hdrives, stopBurst, enterRecover, abandonReception, endReception, hr, abortCut]
  split
  · contradiction
  · split <;> rw [hfr]

/-- In LOOP FR takes the cut as a truncation (R113). -/
theorem cutByAbort_of_loop {r : Rx} (code : Byte) (hdrives : s.lac.mode.drives = true) (hst : s.sc.station = .loop)
    (hr : s.fr.record = some r) (hcand : r.candidate = false) :
    cutByAbort (recordCode code s) = recordCode code (dealDamaged .truncated s.fr.mode r (abortCut s)) := by
  have hcut : cutByAbort (recordCode code s) = { dealDamaged .truncated s.fr.mode r
      (beside { s.fr with mode := .hunt, guard := false, record := none } code (abortCut s)) with
        fr := (abortCut s).fr } := by
    simp [cutByAbort, hdrives, hst, stopBurst, endReception, hr, hcand, afterEnding, leaveReceive, abortCut, beside,
      recordCode]
  have hfr : (dealDamaged .truncated s.fr.mode r (abortCut s)).fr = (abortCut s).fr := by simp
  rw [hcut, dealDamaged_beside]
  simp only [beside, recordCode, ← hfr]

theorem dealDamaged_truncated {m : FrMode} {r : Rx} {s : State} (hst : s.sc.station = .loop) :
    dealDamaged .truncated m r s =
      damagedDealt r (if m = .check then r.length else r.received) (some r.length)
        { Tags.none with truncated := true } s := by
  have hwhole : unanswered r s = false := by simp [unanswered, hst]
  rw [dealDamaged_eq (s := s) rfl (by decide) (.inl rfl), hwhole]
  rfl

/-! #### The slot that is cut -/

/-- ABORT of a SENDING slot, from its cut (R87). -/
theorem abortSlot_sending {w : State} {code : Byte} (hs : slotAt s n = some sl) (hp : sl.phase = .sending)
    (hcut : cutByAbort (recordCode code s) = recordCode code w) (hts : w.ts = s.ts) :
    Reevaluated (withResults code .ok .zero (completeSlot n .aborted sl w))
      (abortSlot n sl (recordCode code s)) := by
  have hslot : slotAt (recordCode code w) n = some sl := (slotAt_congr (congrArg Ts.slots hts) n).trans hs
  have hended : endAborted n (recordCode code w) = completeSlot n .aborted sl (recordCode code w) := by
    simp only [endAborted, slotWhen_of hslot hp]
  rw [← answer_completeSlot]
  simp only [abortSlot, hp, hcut, hended]
  exact (reevaluate_spec _).answer .ok .zero

/-- Settles O21: by the state of the slot that the argument names. -/
theorem abortByTheSlotsState : Obligations.AbortByTheSlotsState := by
  intro s hhigh
  rw [exec_abort hhigh]
  refine ⟨fun hlarge => ?_, fun n hb => ⟨fun hfree => ?_, fun sl hs => ?_⟩⟩
  · rw [abortBody_of_large (u := recordCode 0x12 s) hlarge]
    rfl
  · rw [abortBody_of_free (u := recordCode 0x12 s) hb hfree]
    rfl
  · rw [abortBody_of_slot (u := recordCode 0x12 s) hb hs]
    refine ⟨fun hp => ⟨_, rfl, ?_⟩, fun hp => ⟨_, rfl, ?_⟩, fun hp _ => ⟨_, rfl, ?_⟩,
      fun u hp hdrives hu => ?_, fun hp => ?_, fun o hp => ?_⟩
    · simp only [abortSlot, hp]
      exact (reevaluate_spec _).answer .ok .zero
    · simp only [abortSlot, hp]
      rw [← answer_completeSlot]
      exact (reevaluate_spec _).answer .ok .zero
    · simp only [abortSlot, hp]
      rw [← answer_completeSlot]
      exact (reevaluate_spec _).answer .ok .zero
    · subst hu
      refine ⟨fun _ hr => ⟨_, rfl, ?_⟩, fun r hst hr hcand => ⟨_, rfl, ?_⟩⟩
      · exact abortSlot_sending hs hp (cutByAbort_of_no_record (s := recordCode 0x12 s) hdrives hr) rfl
      · have hdealt := dealDamaged_truncated (m := s.fr.mode) (r := r) (s := abortCut s) hst
        rw [abortCut] at hdealt
        rw [← hdealt]
        exact abortSlot_sending hs hp (cutByAbort_of_loop 0x12 hdrives hst hr hcand) (by simp)
    · simp only [abortSlot, hp]
      rfl
    · simp only [abortSlot, hp]
      rfl

end Sys2Proof.Machine
end

section
/-! SUPPORT. The offer (R71 to R75): what makes a candidate eligible, the order of rank, and the peer entry that stands
ready for a DATA slot that is presented. -/

namespace Sys2Proof.Machine

open Sys2Proof

variable {s : State}

/-! ### Eligibility -/

theorem sends_iff {st : Station} : st.sends = true ↔ st = .online ∨ st = .loop := by
  cases st <;> simp [Station.sends]

theorem makeRoom_isSome_iff {keep : Option Nat} {ps : List Peer} :
    (makeRoom keep ps).isSome = true ↔ ps.length < 16 ∨
      ∃ p ∈ ps, p.active = false ∧ p.holdoff = none ∧ keep ≠ some p.node := by
  have hevicts : (evictOne keep ps).isSome = true ↔ ∃ p ∈ ps, p.evictable keep = true := by
    rw [Option.isSome_iff_ne_none, ne_eq, evictOne_eq_none]
    simp
  by_cases hroom : ps.length < Config.peerCapacity
  · rw [makeRoom, if_pos hroom]
    exact iff_of_true rfl (.inl hroom)
  · rw [makeRoom, if_neg hroom, hevicts, or_iff_right (show ¬ ps.length < 16 from hroom)]
    simp [Peer.evictable, Peer.remoteBusy, and_assoc]

/-- PT admits a destination that is not remote busy, and one without an entry when it has room for it (R71). -/
theorem peerAdmits_iff {keep : Option Nat} {ps : List Peer} {node : Nat} :
    peerAdmits keep ps node = true ↔
      (∃ p, findPeer ps node = some p ∧ p.holdoff = none) ∨
      (∀ p ∈ ps, p.node ≠ node) ∧
        (ps.length < 16 ∨ ∃ p ∈ ps, p.active = false ∧ p.holdoff = none ∧ keep ≠ some p.node) := by
  cases hf : findPeer ps node with
  | none =>
    simp only [peerAdmits, hf, makeRoom_isSome_iff]
    have habsent := findPeer_eq_none.mp hf
    refine ⟨fun h => .inr ⟨habsent, h⟩, ?_⟩
    rintro (⟨_, hp, _⟩ | ⟨_, h⟩)
    · cases hp
    · exact h
  | some p =>
    obtain ⟨hmem, hnode⟩ := findPeer_eq_some hf
    have hpresent : ¬ ∀ q ∈ ps, q.node ≠ node := fun h => h p hmem hnode
    simp [peerAdmits, hf, hpresent, Peer.remoteBusy]

theorem freshPeer_eq_some {node : Nat} :
    freshPeer s = some node ↔
      ∃ o, s.lac.order = some o ∧ o.dest = node ∧ o.createdAt = some s.lac.quiet := by
  simp only [freshPeer, Option.bind_eq_some_iff, Option.ite_none_right_eq_some, Option.some.injEq]
  simp only [and_comm]

/-! ### The order of rank -/

theorem firstEligible_eq_none {c : Sys2Proof.Class} :
    firstEligible s c = none ↔ ∀ n ∈ s.ts.queues.get c, eligible s n = false := by
  simp [firstEligible]

/-- A class queue's candidate stands before every other eligible slot of the queue. -/
theorem firstEligible_eq_some {c : Sys2Proof.Class} {o : Offer} (h : firstEligible s c = some o) :
    ∃ n front back, o = .slot n ∧ s.ts.queues.get c = front ++ n :: back ∧ eligible s n = true ∧
      ∀ m ∈ front, eligible s m = false := by
  obtain ⟨n, hfind, rfl⟩ := Option.map_eq_some_iff.mp h
  obtain ⟨helig, front, back, hq, hfront⟩ := List.find?_eq_some_iff_append.mp hfind
  exact ⟨n, front, back, rfl, hq, helig, by simpa using hfront⟩

/-- Slot `n` is the first eligible candidate in the order of rank (R73). -/
def SlotFirstInRank (s : State) (n : SlotId) : Prop :=
  ∃ c front back, s.ts.queues.get c = front ++ n :: back ∧ eligible s n = true ∧
    (∀ m ∈ front, eligible s m = false) ∧
    (∀ d : Sys2Proof.Class, d.toNat < c.toNat → ∀ m ∈ s.ts.queues.get d, eligible s m = false) ∧
    (c ≠ .urgent → noticeEligible s = false)

theorem slotFirstInRank_of {c : Sys2Proof.Class} {o : Offer} (h : firstEligible s c = some o)
    (hbefore : ∀ d : Sys2Proof.Class, d.toNat < c.toNat → firstEligible s d = none)
    (hnotice : c ≠ .urgent → noticeEligible s = false) : ∃ n, o = .slot n ∧ SlotFirstInRank s n := by
  obtain ⟨n, front, back, ho, hq, helig, hfront⟩ := firstEligible_eq_some h
  exact ⟨n, ho, c, front, back, hq, helig, hfront, fun d hd => Iff.mp firstEligible_eq_none (hbefore d hd), hnotice⟩

/-- What the choice of an offer says, by its result (R73). -/
theorem chooseOffer_cases (s : State) :
    (chooseOffer s = none ∧ noticeEligible s = false ∧
      ∀ c, ∀ n ∈ s.ts.queues.get c, eligible s n = false) ∨
    (chooseOffer s = some .notice ∧ noticeEligible s = true ∧ ∀ n ∈ s.ts.queues.urgent, eligible s n = false) ∨
    ∃ n, chooseOffer s = some (.slot n) ∧ SlotFirstInRank s n := by
  have hslot (c : Sys2Proof.Class) (o : Offer) (hchosen : chooseOffer s = some o) (hc : firstEligible s c = some o)
      (hbefore : ∀ d : Sys2Proof.Class, d.toNat < c.toNat → firstEligible s d = none)
      (hnotice : c ≠ .urgent → noticeEligible s = false) :
      ∃ n, chooseOffer s = some (.slot n) ∧ SlotFirstInRank s n := by
    obtain ⟨n, rfl, hfirst⟩ := slotFirstInRank_of hc hbefore hnotice
    exact ⟨n, hchosen, hfirst⟩
  cases h0 : firstEligible s .urgent with
  | some o =>
    refine .inr (.inr (hslot .urgent o (by simp [chooseOffer, h0]) h0 (fun d hd => ?_) fun h => absurd rfl h))
    exact absurd hd (Nat.not_lt_zero _)
  | none =>
  cases hn : noticeEligible s with
  | true => exact .inr (.inl ⟨by simp [chooseOffer, h0, hn], rfl, Iff.mp firstEligible_eq_none h0⟩)
  | false =>
  cases h1 : firstEligible s .control with
  | some o =>
    refine .inr (.inr (hslot .control o (by simp [chooseOffer, h0, hn, h1]) h1 (fun d hd => ?_) fun _ => hn))
    cases d with
    | urgent => exact h0
    | _ => exact absurd hd (by decide)
  | none =>
  cases h2 : firstEligible s .normal with
  | some o =>
    refine .inr (.inr (hslot .normal o (by simp [chooseOffer, h0, hn, h1, h2]) h2 (fun d hd => ?_) fun _ => hn))
    cases d with
    | urgent => exact h0
    | control => exact h1
    | _ => exact absurd hd (by decide)
  | none =>
  cases h3 : firstEligible s .bulk with
  | some o =>
    refine .inr (.inr (hslot .bulk o (by simp [chooseOffer, h0, hn, h1, h2, h3]) h3 (fun d hd => ?_) fun _ => hn))
    cases d with
    | urgent => exact h0
    | control => exact h1
    | normal => exact h2
    | _ => exact absurd hd (by decide)
  | none =>
    refine .inl ⟨by simp [chooseOffer, h0, hn, h1, h2, h3], rfl, fun c => Iff.mp firstEligible_eq_none ?_⟩
    cases c <;> assumption

/-! ### The peer entry of a presented slot -/

/-- The entry of a presented DATA slot's destination stands at the front, active (R75, R142). -/
theorem peersAfterOffer_of_data {new : Option Offer} {dest : Nat} {qs : List Peer} {q : Peer}
    (hdest : offeredPeer s new = some dest) (hready : ensurePeer (freshPeer s) dest s.pt = some qs)
    (hq : findPeer qs dest = some q) : ∃ rest, peersAfterOffer s new = { q with active := true } :: rest := by
  cases hfreed : releasedPeer s with
  | none =>
    have hfind : qs.find? (fun p => p.node == dest) = some q := hq
    simp only [peersAfterOffer, hdest, hready, hfreed, Option.getD_some, hfind]
    exact ⟨_, rfl⟩
  | some d =>
    have hfind : (qs.map fun p => if p.node = d then { p with active := false } else p).find?
        (fun p => p.node == dest) = some (if q.node = d then { q with active := false } else q) := by
      have hkeeps (p : Peer) : (if p.node = d then { p with active := false } else p).node = p.node := by split <;> rfl
      exact (findPeer_map hkeeps dest qs).trans (by rw [hq]; rfl)
    simp only [peersAfterOffer, hdest, hready, hfreed, Option.getD_some, hfind]
    split <;> exact ⟨_, rfl⟩

/-- The entry that PT holds once room is made: the one that stood, or a new one (R140, R142). -/
theorem findPeer_ensurePeer {keep : Option Nat} {node : Nat} {ps qs : List Peer}
    (h : ensurePeer keep node ps = some qs) : findPeer qs node = some ((findPeer ps node).getD (newPeer node)) := by
  unfold ensurePeer at h
  cases hf : findPeer ps node with
  | some p =>
    rw [hf] at h
    cases h
    exact hf
  | none =>
    rw [hf] at h
    obtain ⟨room, _, rfl⟩ := Option.map_eq_some_iff.mp h
    simp [findPeer, newPeer]

/-- What a re-evaluation presents. -/
theorem reevaluate_presents {n : SlotId} {sl : Slot} (hb : schedulerBusy s = false) (hm : s.lac.mode ≠ .respond)
    (hchosen : chooseOffer s = some (.slot n)) (hnew : s.lac.offer ≠ some (.slot n)) (hs : slotAt s n = some sl) :
    slotAt (reevaluate s) n = some { sl with phase := .offered } ∧
      (reevaluate s).pt = peersAfterOffer s (some (.slot n)) := by
  obtain ⟨_, hoffer, _, hchanged⟩ := reevaluate_spec s
  have hfree : (schedulerBusy s || s.lac.mode == .respond) = false := by simp [hb, hm]
  rw [hfree, if_neg Bool.false_ne_true, hchosen] at hoffer
  rw [hoffer] at hchanged
  obtain ⟨hslots, hpeers⟩ := hchanged hnew.symm
  refine ⟨?_, hpeers⟩
  rw [hslots, hs]
  exact congrArg some (if_pos rfl)

/-- Settles O25: eligibility, the order of rank, and the entry that stands ready. -/
theorem offerIsFirstInRank : Obligations.OfferIsFirstInRank := by
  refine ⟨fun s n => ?_, fun s node => freshPeer_eq_some, fun s => ?_, fun s => ?_,
    fun s n sl hb hm hchosen hnew hs hdata => ?_⟩
  · simp only [eligible_iff, sends_iff, peerAdmits_iff]
  · rw [noticeEligible_iff, sends_iff]
    cases hn : s.rq.notice <;> simp [noticeCommitted, hn]
  · obtain ⟨h, hnone⟩ | ⟨h, hnotice⟩ | ⟨n, h, hslot⟩ := chooseOffer_cases s <;> rw [h]
    · exact hnone
    · exact hnotice
    · exact hslot
  · obtain ⟨hslot, hpeers⟩ := reevaluate_presents hb hm hchosen hnew hs
    have hdest : offeredPeer s (some (.slot n)) = some sl.dest := by simp [offeredPeer, hs, hdata]
    obtain ⟨_, hs', _, _, hadmits⟩ := Iff.mp eligible_iff (chooseOffer_slot s n hchosen)
    obtain rfl := Option.some.inj (hs.symm.trans hs')
    obtain ⟨qs, hready, _⟩ := ensurePeer_of_peerAdmits (hadmits hdata)
    obtain ⟨rest, hfront⟩ := peersAfterOffer_of_data hdest hready (findPeer_ensurePeer hready)
    refine ⟨_, rest, hpeers.trans hfront, hslot, fun q hq => ?_, fun hnone => ?_⟩
    · rw [hq, Option.getD_some]
    · rw [hnone]
      rfl

end Sys2Proof.Machine
end

section
/-! SUPPORT. What a row of the host port does to the part, said once and in full: the port itself, the configuration
and what the port reads and clears, the body of a command, or the test of the water marks. -/

namespace Sys2Proof.Machine

open Sys2Proof

/-- Only the host port, the configuration, the interrupt unit, message memory, the fault event and the interrupts of
the Receive Queue differ. -/
def PortOnly (s t : State) : Prop :=
  t = { s with
    bp := { s.bp with mem := t.bp.mem }
    rq := { s.rq with stale := t.rq.stale, rxStale := t.rq.rxStale, drop := t.rq.drop }
    sc := { s.sc with faultEvent := t.sc.faultEvent }
    iu := t.iu
    hp := t.hp
    cfg := t.cfg }

/-- What a row that does not move the line leaves (`movesLine`). -/
inductive HostRow (s : State) : State → Prop where
  | port {t : State} : PortOnly s t → HostRow s t
  | command (c : HostCommand) (code : Byte) : HostRow s (commandBody c (recordCode code s))
  | marks {u : State} : PortOnly s u → HostRow s (testMarks u)

variable {s t : State}

theorem HostRow.refl (s : State) : HostRow s s := .port rfl

theorem hostRow_hostAccess {f : State → State} (hf : HostRow s (f s)) (h : hostAccess f s = .next t) :
    HostRow s t := by
  unfold hostAccess at h
  split at h <;> cases h
  · exact .refl s
  · exact hf

theorem hostRow_command (c : HostCommand) (code : Byte)
    (h : hostAccess (fun u => commandBody c (recordCode code u)) s = .next t) : HostRow s t :=
  hostRow_hostAccess (f := fun u => commandBody c (recordCode code u)) (.command c code) h

theorem hostRow_hostRead {f : State → State} (hf : PortOnly s (f s)) (h : hostRead f s = .next t) :
    HostRow s t := by
  unfold hostRead at h
  split at h <;> cases h
  · exact .port rfl
  · exact .port hf

theorem portOnly_readWindata (h : readWindata s = .next t) : PortOnly s t := by
  unfold readWindata at h
  split at h
  · cases h; rfl
  · split at h <;> cases h
    rfl

theorem portOnly_writeWindata {v : Byte} (h : writeWindata v s = .next t) : PortOnly s t := by
  unfold writeWindata at h
  split at h
  · cases h; rfl
  · split at h <;> cases h
    next hstore =>
      obtain ⟨a, _, rfl⟩ := Option.map_eq_some_iff.mp hstore
      rfl

/-- A register write that is refused raises CONFIG_ERROR alone. -/
theorem hostRow_ite_configError {p : Prop} [Decidable p] {u : State} (hu : HostRow s u) :
    HostRow s (if p then u else raiseConfigError s) := by
  split
  · exact hu
  · exact .port rfl

theorem hostRow_writeRegister {r : Register} {v : Byte} (h : writeRegister r v s = .next t) : HostRow s t := by
  cases r with
  | cmd =>
    cases h
    unfold writeCmd
    split
    · exact .port rfl
    · exact .command _ v
  | windata => exact .port (portOnly_writeWindata h)
  | winsel => cases h; unfold writeWinsel; split <;> exact .port rfl
  | winofs => cases h; unfold writeWinofs; split <;> exact .port rfl
  | cntsel => cases h; unfold writeCntsel; split <;> exact .port rfl
  | hiwat | lowat => cases h; exact hostRow_ite_configError (.marks rfl)
  | divh | rxtrig | stale | retry | reserve | holdoff | faultlim =>
    cases h; exact hostRow_ite_configError (.port rfl)
  | _ => cases h; exact .port rfl

/-- Everything that a row which does not move the line can do. -/
theorem exec_hostRow {i : Instr} (hi : movesLine i = false) (h : exec i s = .next t) : HostRow s t := by
  cases i with
  | allocate => exact hostRow_command .allocate _ h
  | submit => exact hostRow_command .submit _ h
  | abort => exact hostRow_command .abort _ h
  | collect => exact hostRow_command .collect _ h
  | release => exact hostRow_command .release _ h
  | flush => exact hostRow_command .flush _ h
  | pause => exact hostRow_command .pause _ h
  | resume => exact hostRow_command .resume _ h
  | forget => exact hostRow_command .forget _ h
  | queryPeer => exact hostRow_command .queryPeer _ h
  | join => exact hostRow_command .join _ h
  | leave => exact hostRow_command .leave _ h
  | goOnline => exact hostRow_command .goOnline _ h
  | goListen => exact hostRow_command .goListen _ h
  | goLoop => exact hostRow_command .goLoop _ h
  | goOffline => exact hostRow_command .goOffline _ h
  | setAddress => exact hostRow_command .setAddress _ h
  | clear => exact hostRow_command .clear _ h
  | clearCounters => exact hostRow_command .clearCounters _ h
  | unknownCommand code => exact hostRow_hostAccess (hostRow_writeRegister (r := .cmd) rfl) h
  | stnRead | rxstatRead | flowRead | hstatRead | cntlRead =>
    refine hostRow_hostRead ?_ h
    rfl
  | windataRead =>
    simp only [exec, execWindataRead] at h
    split at h
    · cases h; exact .port rfl
    · exact .port (portOnly_readWindata h)
  | windataWrite v =>
    simp only [exec, execWindataWrite] at h
    split at h
    · cases h; exact .refl s
    · exact .port (portOnly_writeWindata h)
  | winselWrite v => exact hostRow_hostAccess (hostRow_writeRegister (r := .winsel) rfl) h
  | winofsWrite v => exact hostRow_hostAccess (hostRow_writeRegister (r := .winofs) rfl) h
  | cntselWrite v => exact hostRow_hostAccess (hostRow_writeRegister (r := .cntsel) rfl) h
  | intenWrite v => exact hostRow_hostAccess (hostRow_writeRegister (r := .inten) rfl) h
  | divlWrite v => exact hostRow_hostAccess (hostRow_writeRegister (r := .divl) rfl) h
  | divhWrite v => exact hostRow_hostAccess (hostRow_writeRegister (r := .divh) rfl) h
  | hiwatWrite v => exact hostRow_hostAccess (hostRow_writeRegister (r := .hiwat) rfl) h
  | lowatWrite v => exact hostRow_hostAccess (hostRow_writeRegister (r := .lowat) rfl) h
  | rxtrigWrite v => exact hostRow_hostAccess (hostRow_writeRegister (r := .rxtrig) rfl) h
  | staleWrite v => exact hostRow_hostAccess (hostRow_writeRegister (r := .stale) rfl) h
  | registerWrite o v =>
    simp only [exec, execRegisterWrite] at h
    split at h
    · cases h; exact .refl s
    · split at h
      · cases h; exact .refl s
      · exact hostRow_writeRegister h
  | staleTimerExpiry =>
    simp only [exec, execStaleTimerExpiry] at h
    obtain rfl | ⟨_, _, rfl⟩ := lineEvent_cases h
    · exact .refl _
    · exact .port rfl
  | _ => simp [movesLine] at hi

end Sys2Proof.Machine
end

section
/-! SUPPORT. The bounds of the Receive Queue (R117, R104, R127): what they look at, and what each shared operation of
the queue and the receiver makes of them. -/

namespace Sys2Proof.Machine

open Sys2Proof

variable {s t u : State} {r : Rx}

/-! ### What the bounds look at -/

/-- A reception is under way whose claim has succeeded: an entry is promised a place (R104). -/
def Claimed (s : State) : Prop := ∃ r, s.fr.record = some r ∧ r.claim = .succeeded

theorem levelLaw_iff :
    LevelLaw s ↔ s.rq.entries.length ≤ 24 ∧ (Claimed s → s.rq.entries.length < 24) := by
  simp [LevelLaw, Claimed]

theorem not_claimed_of_no_record (h : s.fr.record = none) : ¬ Claimed s := by simp [Claimed, h]

theorem claimed_of_record (h : s.fr.record = some r) : Claimed s ↔ r.claim = .succeeded := by simp [Claimed, h]

/-- A queue that has not grown keeps its level, as long as no claim is new. -/
theorem LevelLaw.of_le (h : LevelLaw s) (hle : t.rq.entries.length ≤ s.rq.entries.length)
    (hclaim : Claimed t → Claimed s) : LevelLaw t := by
  obtain ⟨hfull, hroom⟩ := levelLaw_iff.mp h
  exact levelLaw_iff.mpr ⟨hle.trans hfull, fun hc => hle.trans_lt (hroom (hclaim hc))⟩

/-- The refused list and the overflow stand, and the station is no less congested or paused. -/
structure SameRefused (s t : State) : Prop where
  refused : t.rq.refused = s.rq.refused
  overflow : t.rq.overflow = s.rq.overflow
  congested : t.rq.congested = false → s.rq.congested = false
  paused : t.rq.paused = false → s.rq.paused = false

theorem RefusedLaw.of_same (h : RefusedLaw s) (hst : SameRefused s t) : RefusedLaw t := by
  obtain ⟨hlength, hnodup, hempty⟩ := h
  refine ⟨hst.refused ▸ hlength, hst.refused ▸ hnodup, fun hc hp => ?_⟩
  rw [hst.refused, hst.overflow]
  exact hempty (hst.congested hc) (hst.paused hp)

/-- A list that is empty, with no overflow, is within its bounds in every state of the station. -/
theorem refusedLaw_of_empty (hr : s.rq.refused = []) (ho : s.rq.overflow = false) : RefusedLaw s := by
  simp [RefusedLaw, hr, ho]

/-- From `s` to `t` the level and the refused list stay within their bounds. -/
def KeepsBounds (s t : State) : Prop := (LevelLaw s → LevelLaw t) ∧ (RefusedLaw s → RefusedLaw t)

theorem KeepsBounds.refl (s : State) : KeepsBounds s s := ⟨id, id⟩

theorem KeepsBounds.trans (h : KeepsBounds s t) (k : KeepsBounds t u) : KeepsBounds s u :=
  ⟨k.1 ∘ h.1, k.2 ∘ h.2⟩

theorem KeepsBounds.after (k : KeepsBounds t u) (h : KeepsBounds s t) : KeepsBounds s u := h.trans k

theorem SameRefused.of_rq (h : t.rq = s.rq) : SameRefused s t := by constructor <;> simp [h]

/-- The queue has not grown, the refused list and the station's flow stand, and no claim is new. -/
theorem keepsBounds_of_shorter (hle : t.rq.entries.length ≤ s.rq.entries.length)
    (hrefused : t.rq.refused = s.rq.refused) (hoverflow : t.rq.overflow = s.rq.overflow)
    (hcongested : t.rq.congested = s.rq.congested) (hpaused : t.rq.paused = s.rq.paused)
    (hclaim : Claimed t → Claimed s) : KeepsBounds s t :=
  ⟨fun h => h.of_le hle hclaim,
    fun h => h.of_same ⟨hrefused, hoverflow, by rw [hcongested]; exact id, by rw [hpaused]; exact id⟩⟩

/-- The Receive Queue stands, and no claim is new. -/
theorem keepsBounds_of_rq (hrq : t.rq = s.rq) (hclaim : Claimed t → Claimed s) : KeepsBounds s t :=
  keepsBounds_of_shorter (by rw [hrq]) (by rw [hrq]) (by rw [hrq]) (by rw [hrq]) (by rw [hrq]) hclaim

/-- The Receive Queue and the record stand. -/
theorem keepsBounds_of_keeps (hrq : t.rq = s.rq) (hfr : t.fr.record = s.fr.record) : KeepsBounds s t :=
  keepsBounds_of_rq hrq (by simp [Claimed, hfr])

/-- The record is replaced by one whose claim has not become a success. -/
theorem keepsBounds_of_record {x : Rx} (hr : s.fr.record = some r) (hrq : t.rq = s.rq)
    (hx : t.fr.record = some x) (hclaim : x.claim = r.claim) : KeepsBounds s t :=
  keepsBounds_of_rq hrq (by rw [claimed_of_record hx, claimed_of_record hr, hclaim]; exact id)

theorem KeepsBounds.answered (h : KeepsBounds s t) (c : Cst) (q : Quad) : KeepsBounds s (answer c q t) :=
  h.trans (keepsBounds_of_keeps rfl rfl)

/-- An empty queue and an empty refused list are within their bounds. -/
theorem keepsBounds_of_reset (h : t.rq = .reset) : KeepsBounds s t :=
  ⟨fun _ => levelLaw_iff.mpr (by simp [h, Rq.reset]), fun _ => refusedLaw_of_empty (by rw [h]; rfl) (by rw [h]; rfl)⟩

theorem keepsBounds_reevaluate (s : State) : KeepsBounds s (reevaluate s) :=
  keepsBounds_of_keeps (by simp) (by simp)

/-! ### Congestion and the READY notice -/

/-- A build empties the refused list, so the station may be neither congested nor paused after it (R128). -/
theorem refused_buildNotice (s : State) : (buildNotice s).rq.refused = [] ∧ (buildNotice s).rq.overflow = false := by
  unfold buildNotice
  split
  · next h => exact buildContents_eq_none.mp h
  · simp

theorem refusedLaw_buildNotice (s : State) : RefusedLaw (buildNotice s) :=
  refusedLaw_of_empty (refused_buildNotice s).1 (refused_buildNotice s).2

/-- Congestion is left with R128, or the station is paused (R124). -/
theorem refusedLaw_testExit (h : RefusedLaw s) : RefusedLaw (testExit s) := by
  unfold testExit leaveCongestion
  split
  · dsimp only
    split
    · next hp =>
      obtain ⟨hlength, hnodup, _⟩ := h
      exact ⟨hlength, hnodup, fun _ hp' => absurd (hp.symm.trans hp') (by decide)⟩
    · exact refusedLaw_buildNotice _
  · exact h

theorem keepsBounds_testExit (s : State) : KeepsBounds s (testExit s) :=
  ⟨fun h => h.of_le (by simp) (by simp [Claimed]), refusedLaw_testExit⟩

/-- Entering congestion empties no list. -/
theorem sameRefused_testEntry (s : State) : SameRefused s (testEntry s) := by
  constructor
  case congested => unfold testEntry; split <;> simp [enterCongestion]
  all_goals simp

theorem keepsBounds_testMarks (s : State) : KeepsBounds s (testMarks s) := by
  unfold testMarks
  split
  · exact keepsBounds_testExit s
  · exact ⟨fun h => h.of_le (by simp) (by simp [Claimed]), fun h => h.of_same (sameRefused_testEntry s)⟩

/-! ### Append and refusal -/

theorem level_appendEntry (e : Entry) (s : State) :
    (appendEntry e s).rq.entries.length = s.rq.entries.length + 1 := by
  unfold appendEntry
  dsimp only
  split <;> simp

theorem sameRefused_appendEntry (e : Entry) (s : State) : SameRefused s (appendEntry e s) := by
  constructor
  case congested =>
    intro hc
    unfold appendEntry at hc
    have := (sameRefused_testEntry _).congested hc
    revert this
    dsimp only
    split <;> simp
  all_goals simp

theorem level_keepEntry (e : Entry) (c : List Block) (s : State) :
    (keepEntry e c s).rq.entries.length = s.rq.entries.length + 1 := by
  simp [keepEntry, level_appendEntry]

theorem sameRefused_keepEntry (e : Entry) (c : List Block) (s : State) : SameRefused s (keepEntry e c s) := by
  obtain ⟨hr, ho, hc, hp⟩ := sameRefused_appendEntry { e with chain := c.take (blocksFor e.length) }
    (releaseChain (c.drop (blocksFor e.length)) s)
  exact ⟨hr, ho, hc, hp⟩

/-- A source joins the refused list once, and only while there is room in it (R127). -/
theorem refusedLaw_refuseSource (h : RefusedLaw s) (hflow : s.rq.paused = true ∨ s.rq.congested = true)
    (src : Nat) : RefusedLaw (refuseSource src s) := by
  obtain ⟨hlength, hnodup, hempty⟩ := h
  have hnever (hc : s.rq.congested = false) (hp : s.rq.paused = false) : False := by simp [hc, hp] at hflow
  unfold refuseSource
  split
  · exact ⟨hlength, hnodup, hempty⟩
  · next hmem =>
    split
    · next hroom =>
      refine ⟨?_, ?_, fun hc hp => (hnever hc hp).elim⟩
      · simp only [Config.listCapacity] at hroom
        simp only [List.length_append, List.length_singleton]
        omega
      · exact List.nodup_append.mpr ⟨hnodup, List.nodup_singleton src, by rintro a ha _ hb rfl; simp_all⟩
    · exact ⟨hlength, hnodup, fun hc hp => (hnever hc hp).elim⟩

/-! ### The end of a reception -/

/-- The queue has not grown, or it has grown by the entry that the claim of `r` was promised. -/
def TakesItsPlace (r : Rx) (s t : State) : Prop :=
  t.rq.entries.length ≤ s.rq.entries.length ∨
    r.claim = .succeeded ∧ t.rq.entries.length = s.rq.entries.length + 1

theorem takesItsPlace_of_rq (h : t.rq = s.rq) : TakesItsPlace r s t := .inl (by rw [h])

/-- What dealing with a frame does to the queue: an entry at most in the place that its claim was promised, and a
refused list within its bounds. -/
def DealsWithin (r : Rx) (s t : State) : Prop := TakesItsPlace r s t ∧ (RefusedLaw s → RefusedLaw t)

theorem dealsWithin_of_rq (h : t.rq = s.rq) : DealsWithin r s t :=
  ⟨takesItsPlace_of_rq h, fun hs => hs.of_same (.of_rq h)⟩

theorem dealsWithin_keepEntry (hclaim : r.claim = .succeeded) (e : Entry) (c : List Block)
    (hrq : t.rq = (keepEntry e c u).rq) (hu : u.rq = s.rq) : DealsWithin r s t := by
  obtain ⟨hr, ho, hc, hp⟩ := sameRefused_keepEntry e c u
  refine ⟨.inr ⟨hclaim, by rw [hrq, level_keepEntry, hu]⟩, fun hs => hs.of_same ⟨?_, ?_, ?_, ?_⟩⟩ <;>
    simp_all

theorem dealsWithin_reportLoss (hrq : t.rq = { s.rq with drop := true, loss := true }) : DealsWithin r s t :=
  ⟨.inl (by rw [hrq]), fun hs => hs.of_same (by constructor <;> simp [hrq])⟩

theorem dealsWithin_refuseSource (hflow : s.rq.paused = true ∨ s.rq.congested = true) (src : Nat)
    (hrq : t.rq = (refuseSource src s).rq) : DealsWithin r s t :=
  ⟨.inl (by simp [hrq]), fun hs => (refusedLaw_refuseSource hs hflow src).of_same (.of_rq hrq)⟩

/-- The rows of the decision table (R157): only the last keeps the frame, and only under a claim. -/
theorem dealsWithin_decideRow (p : Peer) (r : Rx) (s : State) : DealsWithin r s (decideRow p r s) := by
  unfold decideRow
  split
  · exact dealsWithin_of_rq (by simp)
  split
  · next hp => exact dealsWithin_refuseSource (.inl hp) r.src (by simp)
  split
  · next hc => exact dealsWithin_refuseSource (.inr hc) r.src (by simp)
  split
  · exact dealsWithin_reportLoss rfl
  · next hclaim =>
    exact dealsWithin_keepEntry (not_not.mp hclaim) _ _ (orderResponse_rq .ack 0 r _) rfl

theorem dealsWithin_decideData (r : Rx) (s : State) : DealsWithin r s (decideData r s) := by
  unfold decideData
  split
  · exact dealsWithin_decideRow _ r { s with pt := _ }
  · split
    · exact dealsWithin_of_rq (by simp)
    · exact dealsWithin_decideRow _ r { s with pt := _ }

theorem dealsWithin_queueGood (r : Rx) (sort : DestSort) (s : State) : DealsWithin r s (queueGood r sort s) := by
  unfold queueGood
  split
  · next hclaim => exact dealsWithin_keepEntry hclaim _ _ rfl rfl
  · exact dealsWithin_reportLoss rfl

theorem dealsWithin_dealGood (r : Rx) (s : State) : DealsWithin r s (dealGood r s) := by
  unfold dealGood
  split
  · exact dealsWithin_of_rq rfl
  · exact dealsWithin_of_rq rfl
  · exact dealsWithin_of_rq (by simp)
  · split
    · exact dealsWithin_of_rq rfl
    · dsimp only
      split
      · exact dealsWithin_decideData r (countEvent .received s)
      · exact dealsWithin_queueGood r _ (countEvent .received s)
  · split
    · exact dealsWithin_of_rq rfl
    · exact dealsWithin_queueGood r _ (countEvent .received s)

theorem dealsWithin_dealDamaged (how : Ending) (m : FrMode) (r : Rx) (s : State) :
    DealsWithin r s (dealDamaged how m r s) := by
  unfold dealDamaged
  dsimp only
  split
  · split
    · next hkept =>
      simp only [Bool.and_eq_true, beq_iff_eq] at hkept
      exact dealsWithin_keepEntry hkept.1.2 _ _ rfl rfl
    · exact dealsWithin_of_rq rfl
  · exact dealsWithin_of_rq rfl

/-- Of the end of a reception the queue sees the frame being dealt with, after FR has given up its record. -/
theorem endReception_dealt (how : Ending) (hr : s.fr.record = some r) :
    ∃ v w, v.rq = s.rq ∧ v.fr.record = none ∧
      w = (if how = .good then dealGood r v else dealDamaged how s.fr.mode r v) ∧
      (endReception how s = w ∨ endReception how s = reevaluate w) := by
  refine ⟨if r.candidate then reportCandidate how r (leaveReceive (afterEnding how s))
    else leaveReceive (afterEnding how s), _, ?_, ?_, rfl, ?_⟩
  · split <;> simp
  · split <;> simp [afterEnding]
  · simp only [endReception, hr]
    split
    · exact .inr rfl
    · exact .inl rfl

/-- The end of a reception leaves no record, so an entry in the place that its claim was promised fills no place that
another is promised (R104, R106). -/
theorem keepsBounds_endReception (how : Ending) (s : State) : KeepsBounds s (endReception how s) := by
  cases hr : s.fr.record with
  | none => simpa only [endReception, hr] using KeepsBounds.refl s
  | some r =>
    obtain ⟨v, w, hrq, hnone, hw, hend⟩ := endReception_dealt how hr
    have hdealt : DealsWithin r v w ∧ w.fr.record = none := by
      rw [hw]
      split
      · exact ⟨dealsWithin_dealGood r v, by simpa using hnone⟩
      · exact ⟨dealsWithin_dealDamaged how _ r v, by simpa using hnone⟩
    obtain ⟨⟨hplace, hrefused⟩, hover⟩ := hdealt
    have hbounds : KeepsBounds s w := by
      refine ⟨fun h => levelLaw_iff.mpr ⟨?_, fun hc => (not_claimed_of_no_record hover hc).elim⟩,
        fun h => hrefused (h.of_same (.of_rq hrq))⟩
      obtain ⟨hfull, hroom⟩ := levelLaw_iff.mp h
      rw [TakesItsPlace, hrq] at hplace
      rcases hplace with hle | ⟨hclaim, hone⟩
      · omega
      · have := hroom ((claimed_of_record hr).mpr hclaim)
        omega
    rcases hend with hend | hend <;> rw [hend]
    · exact hbounds
    · exact hbounds.trans (keepsBounds_reevaluate w)

end Sys2Proof.Machine
end

section
/-! SUPPORT. The rows keep the bounds of the Receive Queue, and so does every step. -/

namespace Sys2Proof.Machine

open Sys2Proof

variable {s t : State} {b : Byte} {r : Rx}

/-! ### The record, where no claim is new -/

@[simp] theorem abandonReception_record (s : State) : (abandonReception s).fr.record = none := by
  unfold abandonReception
  split
  · assumption
  · rfl

@[simp] theorem enterRecover_record (s : State) : (enterRecover s).fr.record = none := by simp [enterRecover]

@[simp] theorem reachQuiet_record (n : Nat) (s : State) : (reachQuiet n s).fr.record = s.fr.record := by
  simp only [reachQuiet, Fr.atQuiet]
  split
  · split <;> rfl
  · split <;> rfl
  · rfl

/-- A record as a start bit opens it claims nothing (R98). -/
theorem not_claimed_openRecord (c : Bool) (s : State) : ¬ Claimed (openRecord c s) := by
  simp [Claimed, openRecord, Rx.empty]

/-- The Receive Queue stands, and nothing is claimed. -/
theorem keepsBounds_of_unclaimed (hrq : t.rq = s.rq) (hclaim : ¬ Claimed t) : KeepsBounds s t :=
  keepsBounds_of_rq hrq fun h => (hclaim h).elim

/-! ### Marks of the quiet count, and rows of other stations -/

theorem keepsBounds_closeAtDeadline (s : State) : KeepsBounds s (closeAtDeadline s) := by
  unfold closeAtDeadline
  split
  · exact .refl s
  · exact keepsBounds_of_keeps (by simp) (by simp)

theorem keepsBounds_takeMarks (s : State) : KeepsBounds s (takeMarks s) :=
  takeMarks_stages (P := KeepsBounds s) (.refl s)
    (fun _ _ hu => hu.trans (keepsBounds_of_keeps (by simp) (by simp)))
    (fun u hu _ => hu.trans (keepsBounds_endReception .truncated u))
    (fun u hu _ => hu.trans (keepsBounds_closeAtDeadline u))
    fun _ hu => hu.trans (keepsBounds_of_keeps (by simp) (by simp))

theorem keepsBounds_beginCharacter (s : State) : KeepsBounds s (beginCharacter s) := by
  refine keepsBounds_of_rq rfl fun ⟨x, hx, hclaim⟩ => ?_
  obtain ⟨r, hr, rfl⟩ := Option.map_eq_some_iff.mp hx
  exact ⟨r, hr, hclaim⟩

theorem keepsBounds_takeStartBit (s : State) : KeepsBounds s (takeStartBit s) := by
  unfold takeStartBit
  split
  · split
    · exact keepsBounds_of_unclaimed (by simp) (not_claimed_of_no_record (by simp [takeStray]))
    · exact keepsBounds_of_unclaimed (by simp) (not_claimed_openRecord _ _)
  · exact keepsBounds_of_keeps (by simp) (by simp)
  · exact keepsBounds_beginCharacter s
  · exact keepsBounds_beginCharacter s
  · exact keepsBounds_beginCharacter s
  · exact .refl s

/-! ### A character -/

/-- A field is put into the record. -/
theorem keepsBounds_setRecord {x : Rx} (hr : s.fr.record = some r) (hx : x.claim = r.claim) :
    KeepsBounds s (setRecord x s) :=
  keepsBounds_of_record hr rfl rfl hx

/-- The claim succeeds only while there is room in the queue (R104). -/
theorem keepsBounds_claimReception (r : Rx) (s : State) : KeepsBounds s (claimReception r s) := by
  unfold claimReception
  dsimp only
  split
  · next hroom =>
    refine ⟨fun h => levelLaw_iff.mpr ⟨(levelLaw_iff.mp h).1, fun _ => hroom.2⟩, fun h => h.of_same (.of_rq rfl)⟩
  · refine keepsBounds_of_unclaimed rfl ?_
    simp [Claimed]

theorem keepsBounds_enterBody (n : Nat) (s : State) : KeepsBounds s (enterBody n s) := keepsBounds_of_keeps rfl rfl

theorem keepsBounds_takeFourth (hr : s.fr.record = some r) : KeepsBounds s (takeFourth b r s) := by
  unfold takeFourth
  split
  · exact keepsBounds_of_record hr rfl rfl rfl
  · exact keepsBounds_of_record hr rfl rfl rfl
  · split
    · exact keepsBounds_endReception _ s
    · exact (keepsBounds_enterBody _ _).after (keepsBounds_setRecord hr rfl)
  all_goals
    split
    · exact keepsBounds_endReception _ s
    · dsimp only
      split
      · exact (keepsBounds_enterBody _ _).after (keepsBounds_setRecord hr rfl)
      · exact (keepsBounds_enterBody _ _).after (keepsBounds_claimReception _ s)

theorem keepsBounds_takeHeader (hr : s.fr.record = some r) : KeepsBounds s (takeHeader b r s) := by
  unfold takeHeader takeLead takeControl takeDest
  split
  · dsimp only
    split
    · exact keepsBounds_endReception _ s
    · exact keepsBounds_setRecord hr rfl
  · split
    · exact keepsBounds_endReception _ s
    · exact keepsBounds_setRecord hr rfl
  · split
    · exact keepsBounds_setRecord hr rfl
    · exact keepsBounds_endReception _ s
  · exact keepsBounds_takeFourth hr

theorem keepsBounds_bodyDone (x : Rx) (s : State) : KeepsBounds s (bodyDone x s) := by
  unfold bodyDone
  split
  · exact keepsBounds_of_keeps rfl rfl
  · exact .refl s

theorem keepsBounds_takeBody (hr : s.fr.record = some r) (ht : takeBody b r s = some t) : KeepsBounds s t := by
  unfold takeBody at ht
  split at ht
  · cases ht
    exact (keepsBounds_bodyDone _ _).after (keepsBounds_setRecord hr rfl)
  · split at ht
    · obtain ⟨u, hu, rfl⟩ := Option.map_eq_some_iff.mp ht
      obtain ⟨a, _, rfl⟩ := Option.map_eq_some_iff.mp hu
      exact (keepsBounds_bodyDone _ _).after (keepsBounds_of_record hr rfl rfl rfl)
    · cases ht
      exact (keepsBounds_bodyDone _ _).after (keepsBounds_setRecord hr rfl)

theorem keepsBounds_takeCheck (hr : s.fr.record = some r) : KeepsBounds s (takeCheck b r s) := by
  obtain ⟨first, hfirst⟩ : ∃ first, takeCheck b r s =
      if r.count ≤ first then setRecord { r with checkHigh := b } s
      else endReception (if checkChars r.crc = [r.checkHigh, b] then .good else .badCheck) s := ⟨_, rfl⟩
  rw [hfirst]
  split
  · exact keepsBounds_setRecord hr rfl
  · exact keepsBounds_endReception _ s

theorem keepsBounds_takeComplete (hr : s.fr.record = some r) (ht : takeComplete b r s = some t) :
    KeepsBounds s t := by
  unfold takeComplete at ht
  dsimp only at ht
  split at ht
  · cases ht; exact (keepsBounds_takeHeader (setRecord_record _ s)).after (keepsBounds_setRecord hr rfl)
  · exact (keepsBounds_takeBody (setRecord_record _ s) ht).after (keepsBounds_setRecord hr rfl)
  · cases ht; exact (keepsBounds_takeCheck (setRecord_record _ s)).after (keepsBounds_setRecord hr rfl)
  · cases ht; exact .refl s

theorem keepsBounds_takeCharacter {stop : LineBit} (hr : s.fr.record = some r)
    (ht : takeCharacter b stop r s = some t) : KeepsBounds s t := by
  have hquiet (q : Nat) : KeepsBounds s { s with lac := { s.lac with quiet := q } } := keepsBounds_of_keeps rfl rfl
  unfold takeCharacter at ht
  split at ht
  · cases ht; exact (hquiet _).trans (keepsBounds_endReception _ _)
  · exact (hquiet _).trans (keepsBounds_takeComplete (by exact hr) ht)

theorem keepsBounds_arrivingCharacter {v c : Byte} {stop st : LineBit}
    (ha : arrivingCharacter v stop s = some (c, st, t)) : KeepsBounds s t := by
  unfold arrivingCharacter at ha
  split at ha
  · cases ha
  · split at ha <;> cases ha
    exact keepsBounds_of_keeps rfl rfl
  · split at ha <;> cases ha
    split
    · exact .refl s
    · exact keepsBounds_takeMarks s

theorem keepsBounds_characterReceived {v : Byte} {stop : LineBit}
    (ht : exec (.characterReceived v stop) s = .next t) : KeepsBounds s t := by
  simp only [exec, execCharacterReceived] at ht
  split at ht
  · cases ht; exact .refl s
  split at ht
  · cases ht; exact .refl s
  next c st u harrives =>
    have hu : KeepsBounds s u := keepsBounds_arrivingCharacter harrives
    split at ht
    · next hr =>
      split at ht <;> cases ht
      exact hu.trans (keepsBounds_takeCharacter hr (by assumption))
    · split at ht <;> cases ht
      · exact hu.trans (keepsBounds_of_keeps rfl rfl)
      · exact .refl s

/-! ### LAC's own rows -/

theorem keepsBounds_ownStartBit (s : State) : KeepsBounds s (ownStartBit s) := by
  unfold ownStartBit
  split
  · exact keepsBounds_of_unclaimed rfl (not_claimed_openRecord _ _)
  · exact .refl s

theorem keepsBounds_loseLead (b : Burst) (k : Nat) (s : State) : KeepsBounds s (loseLead b k s) := by
  refine keepsBounds_of_shorter (by simp) (by simp) (by simp) (by simp) (by simp) fun hc => ?_
  simp [Claimed, loseLead, takeOverLead, Rx.empty] at hc

/-- FR on leaving ONLINE or LOOP makes no claim (R97, R112). -/
theorem claimed_stopReceiver {old target : Station} {driving : Bool}
    (h : Claimed (stopReceiver old target driving s)) : Claimed s := by
  unfold stopReceiver at h
  dsimp only at h
  split at h
  · exact (not_claimed_of_no_record (by simp) h).elim
  split at h
  · exact (not_claimed_of_no_record (by simp) h).elim
  split at h
  · exact (not_claimed_of_no_record (by simp) h).elim
  · obtain ⟨x, hx, hclaim⟩ := h
    obtain ⟨r, hr, rfl⟩ := Option.map_eq_some_iff.mp hx
    exact ⟨r, hr, hclaim⟩

theorem keepsBounds_leaveLine (target : Station) (s : State) : KeepsBounds s (leaveLine target s) := by
  refine keepsBounds_of_shorter (by simp) (by simp) (by simp) (by simp) (by simp) fun hc => ?_
  obtain ⟨r, hr, hclaim⟩ := claimed_stopReceiver (s := stopScheduler (setStation target s))
    (old := s.sc.station) (target := target) (driving := s.lac.burst.isSome) hc
  exact ⟨r, by simpa using hr, hclaim⟩

theorem keepsBounds_applyFaultLimit (s : State) : KeepsBounds s (applyFaultLimit s) := by
  unfold applyFaultLimit
  split
  · exact (keepsBounds_leaveLine .silent s).trans (keepsBounds_of_keeps rfl rfl)
  · exact .refl s

theorem keepsBounds_takeEchoFault (b : Burst) (k : Nat) (s : State) : KeepsBounds s (takeEchoFault b k s) := by
  unfold takeEchoFault
  dsimp only
  generalize hcut : reportCut b.source _ = u
  have hreported : KeepsBounds s u := by
    subst hcut
    exact keepsBounds_of_shorter (by simp) (by simp) (by simp) (by simp) (by simp)
      fun hc => (not_claimed_of_no_record (by simp) hc).elim
  exact hreported.trans ((keepsBounds_applyFaultLimit u).trans (keepsBounds_reevaluate _))

/-! ### Commands -/

theorem keepsBounds_cutByAbort (s : State) : KeepsBounds s (cutByAbort s) := by
  have hstopped : KeepsBounds s (stopBurst .quiet { s with lac := { s.lac with path := [] } }) :=
    keepsBounds_of_keeps rfl rfl
  unfold cutByAbort
  dsimp only
  split
  · exact .refl s
  · split
    · exact hstopped.trans ((keepsBounds_endReception .truncated _).trans (keepsBounds_of_keeps rfl rfl))
    · exact hstopped.trans (keepsBounds_of_unclaimed (by simp) (not_claimed_of_no_record (by simp)))

theorem keepsBounds_abortBody (s : State) : KeepsBounds s (abortBody s) := by
  have hother (t : State) (hrq : t.rq = s.rq) (hfr : t.fr = s.fr) : KeepsBounds s t :=
    keepsBounds_of_keeps hrq (by rw [hfr])
  unfold abortBody
  split
  · exact hother _ (by simp) (by simp)
  · split
    · exact hother _ (by simp) (by simp)
    · unfold abortSlot
      split
      case h_4 => exact (keepsBounds_cutByAbort s).trans (keepsBounds_of_keeps (by simp) (by simp))
      all_goals exact hother _ (by simp) (by simp)

/-- The head leaves the queue, and congestion is tested (R119, R124). -/
theorem keepsBounds_releaseBody (s : State) : KeepsBounds s (releaseBody s) := by
  unfold releaseBody
  split
  · exact (KeepsBounds.refl s).answered _ _
  · next e rest h =>
    refine ((keepsBounds_testExit _).after ?_).answered _ _
    exact keepsBounds_of_shorter (by simp [h]) (by simp) (by simp) (by simp) (by simp) (by simp [Claimed])

/-- Every entry leaves the queue, and congestion is tested (R120, R124). -/
theorem keepsBounds_flushBody (s : State) : KeepsBounds s (flushBody s) := by
  refine KeepsBounds.answered ((keepsBounds_testExit _).after ?_) _ _
  split <;> exact keepsBounds_of_shorter (by simp) (by simp) (by simp) (by simp) (by simp) (by simp [Claimed])

/-- A station that becomes neither congested nor paused has its refused list emptied (R126, R128). -/
theorem keepsBounds_resumeBody (s : State) : KeepsBounds s (resumeBody s) := by
  refine ⟨fun h => h.of_le (by simp) (by simp [Claimed]), fun h => ?_⟩
  unfold resumeBody
  dsimp only
  split
  · exact refusedLaw_buildNotice _
  · next hflow =>
    obtain ⟨hlength, hnodup, hempty⟩ := h
    refine ⟨hlength, hnodup, fun hc _ => hempty hc ?_⟩
    have hcongested : s.rq.congested = false := hc
    simpa [hcongested] using hflow

theorem keepsBounds_pauseBody (s : State) : KeepsBounds s (pauseBody s) :=
  ⟨fun h => h.of_le (by simp) (by simp [Claimed]),
    fun ⟨hlength, hnodup, _⟩ => ⟨hlength, hnodup, fun _ hp => by cases hp⟩⟩

theorem keepsBounds_goOnlineBody (s : State) : KeepsBounds s (goOnlineBody s) := by
  have hcleared : KeepsBounds s (clearFaults s) := keepsBounds_of_keeps rfl rfl
  unfold goOnlineBody
  split
  · exact keepsBounds_of_keeps rfl rfl
  · refine KeepsBounds.trans (t := goOnlineChange (clearFaults s)) ?_ (keepsBounds_of_keeps (by simp) (by simp))
    unfold goOnlineChange
    split
    case h_5 => exact hcleared.trans (keepsBounds_leaveLine _ _)
    all_goals exact keepsBounds_of_keeps rfl rfl

theorem keepsBounds_goListenBody (s : State) : KeepsBounds s (goListenBody s) := by
  unfold goListenBody
  split
  case h_4 | h_5 => exact (keepsBounds_leaveLine .listen s).trans (keepsBounds_of_keeps rfl rfl)
  all_goals exact keepsBounds_of_keeps rfl rfl

theorem keepsBounds_goOfflineBody (s : State) : KeepsBounds s (goOfflineBody s) := by
  have hdiscard (u : State) : KeepsBounds u (answerBare .ok (discardNotice u)) :=
    keepsBounds_of_shorter le_rfl rfl rfl rfl rfl id
  have hhearing : KeepsBounds s (stopHearing s) :=
    keepsBounds_of_unclaimed (by simp) (not_claimed_of_no_record (by simp [stopHearing]))
  unfold goOfflineBody
  split
  · exact hdiscard s
  · exact hhearing.trans (hdiscard _)
  · exact hhearing.trans (hdiscard _)
  · exact (keepsBounds_leaveLine .offline s).trans (hdiscard _)
  · exact (keepsBounds_leaveLine .offline s).trans (hdiscard _)

theorem goLoopBody_record (s : State) : (goLoopBody s).fr.record = s.fr.record := by
  unfold goLoopBody
  split <;> simp

theorem keepsBounds_commandBody (c : HostCommand) (s : State) : KeepsBounds s (commandBody c s) := by
  cases c with
  | abort => exact keepsBounds_abortBody s
  | release => exact keepsBounds_releaseBody s
  | flush => exact keepsBounds_flushBody s
  | pause => exact keepsBounds_pauseBody s
  | resume => exact keepsBounds_resumeBody s
  | goOnline => exact keepsBounds_goOnlineBody s
  | goListen => exact keepsBounds_goListenBody s
  | goLoop => exact keepsBounds_of_keeps (by simp [commandBody]) (goLoopBody_record s)
  | goOffline => exact keepsBounds_goOfflineBody s
  | clear => exact keepsBounds_of_reset rfl
  | allocate | submit | collect | forget | queryPeer | join | leave | setAddress | clearCounters =>
    exact keepsBounds_of_keeps (by simp [commandBody]) (by simp [commandBody])

/-! ### Every step -/

/-- A change of the port alone bears on no bound. -/
theorem keepsBounds_of_portOnly (h : PortOnly s t) : KeepsBounds s t := by
  rw [h]
  exact keepsBounds_of_shorter le_rfl rfl rfl rfl rfl id

theorem keepsBounds_of_hostRow (h : HostRow s t) : KeepsBounds s t := by
  cases h with
  | port hp => exact keepsBounds_of_portOnly hp
  | command c code => exact KeepsBounds.trans (keepsBounds_of_keeps rfl rfl) (keepsBounds_commandBody c (recordCode code s))
  | marks hp => exact (keepsBounds_of_portOnly hp).trans (keepsBounds_testMarks _)

theorem keepsBounds_lineEvent {holds : Bool} {f : State → State} (ht : lineEvent holds f s = .next t)
    (hf : KeepsBounds s (f s)) : KeepsBounds s t := by
  rcases lineEvent_cases ht with rfl | ⟨_, _, rfl⟩
  · exact .refl _
  · exact hf

theorem keepsBounds_exec {i : Instr} (ht : exec i s = .next t) : KeepsBounds s t := by
  by_cases hi : movesLine i = true
  case neg => exact keepsBounds_of_hostRow (exec_hostRow (by simpa using hi) ht)
  cases i with
  | resetAsserted | resetReleased | powerUp => cases ht; exact keepsBounds_of_reset rfl
  | startBit =>
    rw [exec, execStartBit] at ht
    exact keepsBounds_lineEvent ht ((keepsBounds_takeMarks s).trans (keepsBounds_takeStartBit _))
  | characterReceived v stop => exact keepsBounds_characterReceived ht
  | gapGuardClear => exact keepsBounds_lineEvent ht (keepsBounds_of_keeps (by simp) (by simp))
  | gapLimitRecover => exact keepsBounds_lineEvent ht (keepsBounds_of_keeps (by simp) (by simp))
  | gapLimitTruncation =>
    rw [exec, execGapLimitTruncation] at ht
    exact keepsBounds_lineEvent ht
      ((keepsBounds_endReception .truncated _).after (keepsBounds_of_keeps (by simp) (by simp)))
  | demotionClear c =>
    rw [exec, execDemotionClear] at ht
    exact keepsBounds_lineEvent ht (keepsBounds_of_keeps (by simp) (by simp))
  | leadStart =>
    rcases exec_leadStart_cases ht with rfl | ⟨o, chars, _, _, _, rfl⟩
    · exact .refl _
    · have hcommit (u : State) : KeepsBounds u (commitOffer o chars u) :=
        keepsBounds_of_shorter (by simp) (by simp) (by simp) (by simp) (by simp) (by simp [Claimed])
      exact (hcommit _).after ((keepsBounds_ownStartBit _).after (keepsBounds_of_keeps (by simp) (by simp)))
  | contentionLost k =>
    rcases exec_contentionLost_cases ht with rfl | ⟨b, _, _, _, rfl⟩
    · exact .refl _
    · exact keepsBounds_loseLead b k s
  | leadWon =>
    rcases exec_leadWon_cases ht with rfl | ⟨b, _, _, rfl⟩
    · exact .refl _
    · exact keepsBounds_of_keeps rfl rfl
  | echoFault k =>
    rcases exec_echoFault_cases ht with rfl | ⟨b, _, _, _, rfl⟩
    · exact .refl _
    · exact keepsBounds_takeEchoFault b k s
  | frameSent =>
    rcases exec_frameSent_cases ht with rfl | ⟨b, _, _, rfl⟩
    · exact .refl _
    · exact keepsBounds_of_shorter (by simp) (by simp) (by simp) (by simp) (by simp) (by simp [Claimed, takeFrameEnd])
  | responseStart =>
    rcases exec_responseStart_cases ht with rfl | ⟨chars, u, _, _, rfl, rfl⟩
    · exact .refl _
    · have hreached : KeepsBounds s (reachQuiet Config.responseGap s) := keepsBounds_of_keeps (by simp) (by simp)
      exact hreached.trans ((keepsBounds_takeMarks _).trans
        ((keepsBounds_ownStartBit _).trans (keepsBounds_of_keeps rfl rfl)))
  | responseSent =>
    rcases exec_responseSent_cases ht with rfl | ⟨b, _, _, rfl⟩
    · exact .refl _
    · exact keepsBounds_of_keeps (by simp) (by simp [takeFrameEnd])
  | noResponse =>
    rcases exec_noResponse_cases ht with rfl | ⟨_, rfl⟩
    · exact .refl _
    · exact KeepsBounds.trans (keepsBounds_of_keeps (by simp) (by simp))
        (keepsBounds_closeAtDeadline (reachQuiet _ s))
  | holdoffExpiry node => exact keepsBounds_lineEvent ht (keepsBounds_of_keeps (by simp) (by simp))
  | dominantBitInRecover =>
    rw [exec, execDominantBitInRecover] at ht
    exact keepsBounds_lineEvent ht ((keepsBounds_takeMarks s).trans (keepsBounds_of_keeps (by simp) (by simp)))
  | _ => simp [movesLine] at hi

/-- With nothing waiting the part counts its timers and the bits of the line, and queues rows. -/
theorem keepsBounds_idle (s : State) : KeepsBounds s (idle s) := by
  have hbit : KeepsBounds s (bitTime s) := by
    unfold bitTime tickLine
    split
    · exact .refl s
    · dsimp only
      split
      · exact keepsBounds_of_shorter le_rfl rfl rfl rfl rfl id
      · split <;> exact keepsBounds_of_shorter le_rfl rfl rfl rfl rfl id
  unfold idle
  split
  · exact hbit
  · exact keepsBounds_of_keeps rfl rfl

theorem keepsBounds_step (ht : step s = .next t) : KeepsBounds s t := by
  unfold step at ht
  split at ht
  · cases ht; exact keepsBounds_idle s
  · next c rest _ =>
    exact KeepsBounds.trans (t := { s with pending := rest }) (keepsBounds_of_keeps rfl rfl) (keepsBounds_exec ht)

/-- Settles O8: an entry takes only a place that a claim was promised, and a claim is promised only a free one; a
source is refused only while the station is congested or paused, and the list is emptied when it is neither. -/
theorem receiveQueueBoundsAreKept : Obligations.ReceiveQueueBoundsAreKept :=
  ⟨fun _ _ h ht => (keepsBounds_step ht).1 h, fun _ _ h ht => (keepsBounds_step ht).2 h⟩

end Sys2Proof.Machine
end

section
/-! SUPPORT. JOIN and LEAVE (R102): the group that an argument names, each command's answer by its tests, and what keeps
or empties the group list. -/

namespace Sys2Proof.Machine

open Sys2Proof

variable {s t u : State} {g : Nat}

theorem isGroup_iff : isGroup g = true ↔ 48 ≤ g ∧ g ≤ 62 := by
  unfold isGroup Config.maxNode Config.maxGroup
  rw [Bool.and_eq_true, decide_eq_true_eq, decide_eq_true_eq]
  omega

theorem exec_join (h : s.resetLow = false) : exec .join s = .next (joinBody (recordCode 0x38 s)) := by
  rw [exec, execJoin, hostAccess_of_high _ h]

theorem exec_leave (h : s.resetLow = false) : exec .leave s = .next (leaveBody (recordCode 0x39 s)) := by
  rw [exec, execLeave, hostAccess_of_high _ h]

/-- The answer holds the length of the list (R102). -/
theorem answerGroups_recordCode {n : Nat} (code : Byte) (c : Cst) (hn : s.fr.groups.length = n) :
    answerGroups c (recordCode code s) = withResults code c (resultByte (byteOf n)) s := by
  rw [answerGroups, recordCode_fr, hn]
  rfl

/-! ### The tests of JOIN -/

theorem joinBody_of_no_group (h : ¬ (48 ≤ u.hp.args.b0.toNat ∧ u.hp.args.b0.toNat ≤ 62)) :
    joinBody u = answerGroups .badArgument u := by
  simp only [joinBody, Bool.not_eq_true _ ▸ mt isGroup_iff.mp h, Bool.not_false, if_true]

section

variable (hg : 48 ≤ u.hp.args.b0.toNat ∧ u.hp.args.b0.toNat ≤ 62)
include hg

theorem joinBody_of_member (h : u.hp.args.b0.toNat ∈ u.fr.groups) : joinBody u = answerGroups .ok u := by
  simp [joinBody, isGroup_iff.mpr hg, h]

theorem joinBody_of_full (h : u.hp.args.b0.toNat ∉ u.fr.groups) (hfull : 8 ≤ u.fr.groups.length) :
    joinBody u = answerGroups .full u := by
  simp [joinBody, isGroup_iff.mpr hg, h, Config.groupCapacity, hfull]

theorem joinBody_of_new (h : u.hp.args.b0.toNat ∉ u.fr.groups) (hroom : u.fr.groups.length < 8) :
    joinBody u = answerGroups .ok (setGroups (u.fr.groups ++ [u.hp.args.b0.toNat]) u) := by
  simp [joinBody, isGroup_iff.mpr hg, h, Config.groupCapacity, Nat.not_le.mpr hroom]

end

/-! ### The tests of LEAVE -/

theorem leaveBody_of_no_group (h : ¬ (48 ≤ u.hp.args.b0.toNat ∧ u.hp.args.b0.toNat ≤ 62)) :
    leaveBody u = answerGroups .badArgument u := by
  simp only [leaveBody, Bool.not_eq_true _ ▸ mt isGroup_iff.mp h, Bool.not_false, if_true]

section

variable (hg : 48 ≤ u.hp.args.b0.toNat ∧ u.hp.args.b0.toNat ≤ 62)
include hg

theorem leaveBody_of_missing (h : u.hp.args.b0.toNat ∉ u.fr.groups) : leaveBody u = answerGroups .notFound u := by
  simp [leaveBody, isGroup_iff.mpr hg, h]

theorem leaveBody_of_member (h : u.hp.args.b0.toNat ∈ u.fr.groups) :
    leaveBody u = answerGroups .ok (setGroups (u.fr.groups.filter fun x => x ≠ u.hp.args.b0.toNat) u) := by
  simp [leaveBody, isGroup_iff.mpr hg, h]

end

/-! ### What keeps the list -/

/-- The commands that change the station state, CLEAR, and the echo fault that leads to SILENT keep the group list. -/
theorem groups_of_stationChange {c : Instr}
    (hc : c ∈ ([.goOnline, .goListen, .goLoop, .goOffline, .clear] : List Instr) ∨ ∃ b, c = .echoFault b)
    (hs : s.resetLow = false) (ht : exec c s = .next t) : t.fr.groups = s.fr.groups := by
  have hcommand (k : HostCommand) (code : Byte) (hk : (commandBody k (recordCode code s)).fr.groups = s.fr.groups)
      (hx : hostAccess (fun u => commandBody k (recordCode code u)) s = .next t) : t.fr.groups = s.fr.groups := by
    rw [hostAccess_of_high _ hs] at hx
    cases hx
    exact hk
  rcases hc with hc | ⟨b, rfl⟩
  · fin_cases hc
    · exact hcommand .goOnline _ (by simp [commandBody]) ht
    · exact hcommand .goListen _ (by simp [commandBody]) ht
    · exact hcommand .goLoop _ (by simp [commandBody]) ht
    · exact hcommand .goOffline _ (by simp [commandBody]) ht
    · exact hcommand .clear _ (by simp [commandBody, clearBody]) ht
  · rcases exec_echoFault_cases ht with rfl | ⟨burst, _, _, _, rfl⟩
    · rfl
    · simp

/-- Settles O29: the group, then the list's contents, then its length. -/
theorem joinAndLeaveKeepTheGroupList : Obligations.JoinAndLeaveKeepTheGroupList := by
  rintro s _ _ hhigh rfl rfl
  rw [exec_join hhigh, exec_leave hhigh]
  refine ⟨fun hno => ⟨?_, ?_⟩, fun hlow hup => ⟨fun hmem => ⟨?_, ?_⟩, fun hmem => ⟨?_, fun hfull => ?_, fun hroom => ?_⟩⟩,
    fun c t hc ht => groups_of_stationChange hc hhigh ht, fun t ht => ?_⟩
  · rw [joinBody_of_no_group (u := recordCode 0x38 s) hno, answerGroups_recordCode _ _ rfl]
  · rw [leaveBody_of_no_group (u := recordCode 0x39 s) hno, answerGroups_recordCode _ _ rfl]
  · rw [joinBody_of_member (u := recordCode 0x38 s) ⟨hlow, hup⟩ hmem, answerGroups_recordCode _ _ rfl]
  · rw [leaveBody_of_member (u := recordCode 0x39 s) ⟨hlow, hup⟩ hmem]
    rfl
  · rw [leaveBody_of_missing (u := recordCode 0x39 s) ⟨hlow, hup⟩ hmem, answerGroups_recordCode _ _ rfl]
  · rw [joinBody_of_full (u := recordCode 0x38 s) ⟨hlow, hup⟩ hmem hfull.ge, answerGroups_recordCode _ _ hfull]
  · rw [joinBody_of_new (u := recordCode 0x38 s) ⟨hlow, hup⟩ hmem hroom]
    exact congrArg _ (answerGroups_recordCode (s := setGroups _ s) _ _ (by simp [setGroups]))
  · cases ht
    rfl

end Sys2Proof.Machine
end

section
/-! SUPPORT. The end of a reception whose candidate, if it is one, has failed (R106, R109): what is reported, and what a
damaged and a malformed frame leave. -/

namespace Sys2Proof.Machine

open Sys2Proof

variable {how : Ending} {s u : State} {r x : Rx}

/-- What is no good ACK or BUSY has failed as the candidate (R109). -/
theorem reportCandidate_of_failed (h : how ≠ .good ∨ (x.kind ≠ .ack ∧ x.kind ≠ .busy)) (s : State) :
    reportCandidate how x s = failCandidate s := by
  refine if_neg ?_
  rcases h with h | ⟨hack, hbusy⟩
  · simp [h]
  · simp [hack, hbusy]

/-- The state in which a frame is dealt with: the reception is over, and a failed candidate is reported. -/
def endedUnanswered (how : Ending) (r : Rx) (u : State) : State :=
  candidateFailed r (receptionOver how.mode (how.guard u.lac.quiet) u.lac.quiet u)

/-- The end of a reception that is not the answer to an attempt. -/
theorem endReception_of_failed (hx : u.fr.record = some x) (hs : u.lac.mode = s.lac.mode)
    (h : x.candidate = false ∨ how ≠ .good ∨ (x.kind ≠ .ack ∧ x.kind ≠ .busy)) :
    ReturnsToQuiet s
      (if how = .good then dealGood x (endedUnanswered how x u)
        else dealDamaged how u.fr.mode x (endedUnanswered how x u)) (endReception how u) := by
  refine endReception_spec hx hs ?_ rfl
  rw [endedUnanswered, candidateFailed]
  split
  · next hc =>
    rw [reportCandidate_of_failed]
    exact h.resolve_left (by simp [hc])
  · rfl

/-- A damaged frame (R107, R99, R8). -/
theorem endReception_damaged (hx : u.fr.record = some x) (hs : u.lac.mode = s.lac.mode) (hsc : u.sc = s.sc)
    (hgood : how ≠ .good) (hform : how ≠ .malformed) (hxr : x = r ∨ x = r.counted) :
    ReturnsToQuiet s
      (damagedDealt r (if u.fr.mode = .check then r.length else r.received)
        (if how = .truncated then some r.length else none)
        { Tags.none with
          crcBad := decide (how = .badCheck), framing := decide (how = .framing),
          truncated := decide (how = .truncated), unanswered := unanswered r s }
        (endedUnanswered how r u)) (endReception how u) := by
  have hcand : endedUnanswered how x u = endedUnanswered how r u := by rcases hxr with rfl | rfl <;> rfl
  have hstation : (endedUnanswered how r u).sc.station = s.sc.station := by
    rw [endedUnanswered, (candidateFailed_keeps r _).1, ← hsc]
    rfl
  have h := endReception_of_failed (how := how) hx hs (.inr (.inl hgood))
  rwa [if_neg hgood, hcand, dealDamaged_eq hstation hform hxr] at h

/-- A malformed frame is counted, and its chain is released (R100). -/
def malformedDealt (r : Rx) (c : State) : State :=
  { c with
    ctr := { c.ctr with damaged := bump c.ctr.damaged }
    bp := { c.bp with free := c.bp.free ++ r.chain } }

theorem dealDamaged_malformed (m : FrMode) (r : Rx) (c : State) : dealDamaged .malformed m r c = malformedDealt r c := by
  cases hacc : r.accepted <;> simp [dealDamaged, hacc, releaseChain, countEvent, Counters.count, malformedDealt]

theorem endReception_malformed (hx : u.fr.record = some x) (hs : u.lac.mode = s.lac.mode) :
    ReturnsToQuiet s (malformedDealt x (endedUnanswered .malformed x u)) (endReception .malformed u) := by
  have h := endReception_of_failed (how := .malformed) hx hs (.inr (.inl (by decide)))
  rwa [if_neg (by decide), dealDamaged_malformed] at h

/-- A good frame that is no answer to an attempt is dealt with by its kind (R108). -/
theorem endReception_good (hx : u.fr.record = some x) (hs : u.lac.mode = s.lac.mode)
    (h : x.candidate = false ∨ (x.kind ≠ .ack ∧ x.kind ≠ .busy)) :
    ReturnsToQuiet s (dealGood x (endedUnanswered .good x u)) (endReception .good u) :=
  endReception_of_failed (how := .good) hx hs (h.imp_right .inr)

/-- FR after the end of a reception (R95, R106). -/
theorem endReception_fr (how : Ending) (hr : s.fr.record = some r) :
    (endReception how s).fr =
      { s.fr with mode := how.mode, guard := how.guard s.lac.quiet, record := none } := by
  have hended : (afterEnding how s).fr =
      { s.fr with mode := how.mode, guard := how.guard s.lac.quiet, record := none } := by
    cases how <;> rfl
  rw [← hended]
  simp only [endReception, hr]
  (repeat' split) <;> simp

/-- The end of a reception does not begin to drive. -/
theorem endReception_drives (how : Ending) (h : s.lac.mode.drives = false) :
    (endReception how s).lac.mode.drives = false := by
  have hleft : (leaveReceive (afterEnding how s)).lac.mode.drives = false := by
    unfold leaveReceive
    split
    · rfl
    · exact h
  exact endReception_stages (P := fun u => u.lac.mode.drives = false) h hleft (fun _ _ hu => by simpa using hu)
    (fun _ _ hu => by simpa using hu) (fun _ _ _ hu => by simpa using hu) fun _ hu => by simpa using hu

end Sys2Proof.Machine
end

section
/-! SUPPORT. The marks of the quiet count (R95, R96, R24, R8), what comes in RECOVER, and truncation. -/

namespace Sys2Proof.Machine

open Sys2Proof

variable {s t : State} {r : Rx}

/-! ### FR's marks -/

/-- FR hunts with its guard clear at a count that has reached 4, or 11 in RECOVER (R95, R96). -/
theorem Fr.atQuiet_hunts {q : Nat} {fr : Fr}
    (h : (fr.mode = .hunt ∧ (fr.guard = false ∨ 4 ≤ q)) ∨ (fr.mode = .recover ∧ 11 ≤ q)) :
    fr.atQuiet q = { fr with mode := .hunt, guard := false } := by
  obtain ⟨mode, guard, record, groups⟩ := fr
  rcases h with ⟨rfl, h⟩ | ⟨rfl, h⟩
  · by_cases hq : 4 ≤ q
    · exact if_pos hq
    · obtain rfl := h.resolve_right hq
      exact if_neg hq
  · exact if_pos h

theorem reachQuiet_of_receiving (hm : s.fr.mode.receiving = true) (n : Nat) :
    reachQuiet n s = { s with lac := { s.lac with quiet := max s.lac.quiet n } } := by
  simp only [reachQuiet, (Fr.atQuiet_receiving _ s.fr).1 hm]

/-- Below 11 RECOVER goes on. -/
theorem reachQuiet_zero_of_recover (hm : s.fr.mode = .recover) (hq : s.lac.quiet < 11) : reachQuiet 0 s = s := by
  have hfr : s.fr.atQuiet s.lac.quiet = s.fr := Fr.atQuiet_below (by simp [hm]) fun _ => hq
  simp only [reachQuiet, Nat.max_zero, hfr]

theorem takeMarks_of_recover (hm : s.fr.mode = .recover) (hq : s.lac.quiet < 11) (hmarks : MarksTaken s) :
    takeMarks s = s := by
  rw [takeMarks_of_taken hmarks, reachQuiet_zero_of_recover hm hq]

/-- A mark from 11 on finds FR hunting with its guard clear, or receiving, or off. -/
theorem reachQuiet_of_gapLimit {n : Nat} (hn : 11 ≤ n) (s : State) :
    reachQuiet n s = { s with
      lac := { s.lac with quiet := max s.lac.quiet n }
      fr := if s.fr.mode = .hunt ∨ s.fr.mode = .recover then { s.fr with mode := .hunt, guard := false }
        else s.fr } := by
  rw [reachQuiet]
  split
  · next hm => rw [Fr.atQuiet_of_gapLimit hm (le_max_of_le_right hn)]
  · next hm =>
    rw [not_or] at hm
    rw [Fr.atQuiet_below (fun h => absurd h hm.1) fun h => absurd h hm.2]

/-! ### Characters in RECOVER -/

theorem Station.readsLine_cases {st : Station} (h : st.readsLine = true) : st ≠ .offline ∧ st ≠ .loop := by
  cases st <;> simp_all [Station.readsLine]

/-- A character of another station that FR passes over (R96). -/
theorem exec_characterReceived_of_recover {v : Byte} {stop : LineBit} (hlow : s.resetLow = false)
    (hm : s.fr.mode = .recover) (hst : s.sc.station.readsLine = true) (hdrives : s.lac.mode.drives = false)
    (hq : s.lac.quiet < 11) (hmarks : MarksTaken s) (hr : s.fr.record = none) :
    exec (.characterReceived v stop) s = .next (dominantPassed (quietAtStop v stop) s) := by
  have harrives : arrivingCharacter v stop s = some (v, stop, s) := by
    obtain ⟨hoffline, hloop⟩ := Station.readsLine_cases hst
    have hbegun : characterBegun s = false := by simp [characterBegun, hr]
    simp only [arrivingCharacter, hdrives, hbegun, takeMarks_of_recover hm hq hmarks]
    split <;> simp_all
  simp [exec, execCharacterReceived, hlow, harrives, hr, hm, dominantPassed]

/-! ### Truncation -/

theorem waitsForCharacter_of (hm : s.fr.mode.receiving = true) (hr : s.fr.record = some r) (hin : r.inChar = false) :
    waitsForCharacter s = true := by
  simp [waitsForCharacter, hm, hr, hin]

theorem receiving_of (hm : s.fr.mode = .header ∨ s.fr.mode = .body ∨ s.fr.mode = .check) :
    s.fr.mode.receiving = true := by
  rcases hm with h | h | h <;> rw [h] <;> rfl

/-- Truncation between two characters (R8, R99, R107). -/
theorem exec_gapLimitTruncation_of (hlow : s.resetLow = false) (hm : s.fr.mode.receiving = true)
    (hr : s.fr.record = some r) (hin : r.inChar = false) :
    exec .gapLimitTruncation s =
      .next (endReception .truncated { s with lac := { s.lac with quiet := max s.lac.quiet 11 } }) := by
  rw [exec, execGapLimitTruncation, lineEvent_of _ hlow (waitsForCharacter_of hm hr hin), reachQuiet_of_receiving hm]
  rfl

/-- Settles O51: each row brings the count to its mark, and the marks of FR up to it. -/
theorem marksOfTheQuietCount : Obligations.MarksOfTheQuietCount := by
  refine ⟨fun s hlow => ⟨fun hm hg => ?_, fun hm => ?_, fun hm hst hq hmarks => ?_, fun hq => ?_,
    fun v stop hm hst hdrives hq hmarks hr => exec_characterReceived_of_recover hlow hm hst hdrives hq hmarks hr,
    fun c hm hd => ?_⟩, fun s r hlow hm hr hin => ?_⟩
  · rw [exec, execGapGuardClear, lineEvent_of _ hlow (by simp [hm, hg]), reachQuiet_of_hunt hm (by decide)]
    rfl
  · rw [exec, execGapLimitRecover, lineEvent_of _ hlow (by simp [hm]), reachQuiet_of_gapLimit (by decide),
      if_pos (.inr hm)]
    rfl
  · rw [exec, execDominantBitInRecover, lineEvent_of _ hlow (by simp [hm, hst, Config.gapLimit, hq]),
      takeMarks_of_recover hm hq hmarks]
    rfl
  · rw [exec, execDominantBitInRecover, lineEvent_of_not]
    simp [Config.gapLimit, Nat.not_lt.mpr hq]
  · rw [exec, execDemotionClear, lineEvent_of _ hlow (by simp [hm, hd]), demotedThreshold_eq,
      reachQuiet_of_gapLimit (by omega)]
  · refine ⟨_, exec_gapLimitTruncation_of hlow (receiving_of hm) hr hin, ?_⟩
    exact endReception_damaged (how := .truncated) (s := s) hr rfl rfl (by decide) (by decide) (.inl rfl)

end Sys2Proof.Machine
end

section
/-! SUPPORT. START_BIT (R95, R98, R96, R39, R37): the marks taken before it, mark by mark, and the start bit by the
receiver state. -/

namespace Sys2Proof.Machine

open Sys2Proof

variable {s t : State} {m : Instr} {rest : List Instr}

/-! ### Taking the marks, stage by stage -/

/-- A frame is truncated at the gap limit between two characters (R8). -/
def truncatedAtLimit (s : State) : State :=
  if waitsForCharacter s && decide (s.lac.quiet ≥ Config.gapLimit) then endReception .truncated s else s

/-- A window is closed at the deadline (R39). -/
def closedAtDeadline (s : State) : State :=
  if s.lac.mode == .quiet && decide (s.lac.quiet ≥ Config.responseDeadline) then closeAtDeadline s else s

/-- The demotion flags whose mark is reached are normal (R24). -/
def demotionsCleared (s : State) : State := if s.lac.mode == .quiet then clearReachedDemotions s else s

theorem takeMarks_eq (s : State) :
    takeMarks s = demotionsCleared (closedAtDeadline (truncatedAtLimit (reachQuiet 0 s))) := rfl

/-! ### A mark of FR comes first -/

theorem dueReceiver_eq_nil :
    dueReceiver s = [] ↔
      (s.fr.mode = .hunt → s.fr.guard = true → s.lac.quiet < 4) ∧
      (waitsForCharacter s = true → s.lac.quiet < 11) ∧ (s.fr.mode = .recover → s.lac.quiet < 11) := by
  simp only [List.eq_nil_iff_forall_not_mem, mem_dueReceiver, not_or, not_and, Nat.not_le]
  exact ⟨fun h => ⟨(h _).1 rfl, (h _).2.1 rfl, (h _).2.2 rfl⟩, fun ⟨h4, h11, hr⟩ _ => ⟨fun _ => h4, fun _ => h11, fun _ => hr⟩⟩

/-- FR's marks are read off FR and the quiet count. -/
theorem dueReceiver_congr (hfr : t.fr = s.fr) (hq : t.lac.quiet = s.lac.quiet) : dueReceiver t = dueReceiver s := by
  unfold dueReceiver waitsForCharacter
  rw [hfr, hq]

/-- With no mark of FR due, a mark of the count that stands changes nothing of FR. -/
theorem reachQuiet_of_no_mark {n : Nat} (h : dueReceiver s = []) (hn : n ≤ s.lac.quiet) : reachQuiet n s = s := by
  obtain ⟨hhunt, _, hrecover⟩ := dueReceiver_eq_nil.mp h
  simp only [reachQuiet, Nat.max_eq_left hn, Fr.atQuiet_below hhunt hrecover]

theorem takeMarks_of_no_receiver_mark (h : dueReceiver s = []) :
    takeMarks s = demotionsCleared (closedAtDeadline s) := by
  have hlimit : truncatedAtLimit s = s := by
    refine if_neg ?_
    simp only [Bool.and_eq_true, decide_eq_true_eq, not_and, ge_iff_le, Nat.not_le]
    exact (dueReceiver_eq_nil.mp h).2.1
  rw [takeMarks_eq, reachQuiet_of_no_mark h (Nat.zero_le _), hlimit]

/-- FR's marks at a count are taken once. -/
theorem Fr.atQuiet_atQuiet (q : Nat) (fr : Fr) : (fr.atQuiet q).atQuiet q = fr.atQuiet q := by
  by_cases h : (fr.mode = .hunt ∧ (fr.guard = false ∨ 4 ≤ q)) ∨ (fr.mode = .recover ∧ 11 ≤ q)
  · rw [Fr.atQuiet_hunts h]
    exact Fr.atQuiet_hunts (.inl ⟨rfl, .inl rfl⟩)
  · have hstays : fr.atQuiet q = fr := by
      simp only [not_or, not_and, Nat.not_le, Bool.not_eq_false] at h
      exact Fr.atQuiet_below (fun hm _ => (h.1 hm).2) h.2
    rw [hstays, hstays]

/-- A row of FR's that is due brings no count, and takes FR's marks. -/
theorem reachQuiet_of_reached {n : Nat} (hn : n ≤ s.lac.quiet) : reachQuiet n s = reachQuiet 0 s := by
  simp only [reachQuiet, Nat.max_eq_left hn, Nat.max_zero]

theorem takeMarks_reachQuiet_zero (s : State) : takeMarks (reachQuiet 0 s) = takeMarks s := by
  have htwice : reachQuiet 0 (reachQuiet 0 s) = reachQuiet 0 s := by
    simp only [reachQuiet, Nat.max_zero, Fr.atQuiet_atQuiet]
  rw [takeMarks_eq, htwice, takeMarks_eq]

/-- A frame that is truncated leaves FR hunting, with no mark due. -/
theorem takeMarks_of_truncated (hw : waitsForCharacter s = true) (hq : 11 ≤ s.lac.quiet) :
    takeMarks (endReception .truncated s) = takeMarks s := by
  obtain ⟨hm, hrecord⟩ : s.fr.mode.receiving = true ∧ s.fr.record ≠ none := by
    cases hr : s.fr.record <;> simp_all [waitsForCharacter]
  obtain ⟨r, hr⟩ := Option.ne_none_iff_exists'.mp hrecord
  have hnone : dueReceiver (endReception .truncated s) = [] := by
    rw [dueReceiver_eq_nil]
    simp [waitsForCharacter, endReception_fr _ hr, Ending.mode, Ending.guard]
  have hlimit : truncatedAtLimit s = endReception .truncated s := if_pos (by simp [hw, Config.gapLimit, hq])
  rw [takeMarks_of_no_receiver_mark hnone, takeMarks_eq, reachQuiet_of_receiving hm, Nat.max_zero, hlimit]

/-! ### The deadline comes first -/

/-- The window that has closed leaves nothing to close, and FR's marks as they are. -/
theorem closeAtDeadline_leaves (s : State) :
    (closeAtDeadline s).fr = s.fr ∧ (closeAtDeadline s).sc = s.sc ∧ (closeAtDeadline s).resetLow = s.resetLow ∧
    (closeAtDeadline s).lac.quiet = s.lac.quiet ∧ (closeAtDeadline s).lac.mode = s.lac.mode ∧
    (closeAtDeadline s).lac.window = none := by
  unfold closeAtDeadline
  split
  · next hw => simp [hw]
  · simp

theorem takeMarks_of_closed (hnone : dueReceiver s = []) (hm : s.lac.mode = .quiet) (hq : 10 ≤ s.lac.quiet) :
    takeMarks (closeAtDeadline s) = takeMarks s := by
  obtain ⟨hfr, _, _, hquiet, _, hwindow⟩ := closeAtDeadline_leaves s
  have hclosed : closedAtDeadline (closeAtDeadline s) = closeAtDeadline s := by
    rw [closedAtDeadline, closeAtDeadline.eq_1 (closeAtDeadline s), hwindow]
    exact ite_self _
  have hdue : closedAtDeadline s = closeAtDeadline s := if_pos (by simp [hm, Config.responseDeadline, hq])
  rw [takeMarks_of_no_receiver_mark ((dueReceiver_congr hfr hquiet).trans hnone), hclosed,
    takeMarks_of_no_receiver_mark hnone, hdue]

/-! ### A demotion mark comes first -/

/-- The demotion flag of a class is normal. -/
def demotionCleared (c : Sys2Proof.Class) (s : State) : State :=
  { s with lac := { s.lac with demoted := s.lac.demoted.set c false } }

/-- A flag whose mark is reached is cleared with the others. -/
theorem clearReachedDemotions_cleared {c : Sys2Proof.Class} (hq : 13 + 2 * c.toNat ≤ s.lac.quiet) :
    clearReachedDemotions (demotionCleared c s) = clearReachedDemotions s := by
  have hflags : (s.lac.demoted.set c false).mapWith
        (fun d f => f && decide (s.lac.quiet < Config.demotedThreshold d)) =
      s.lac.demoted.mapWith fun d f => f && decide (s.lac.quiet < Config.demotedThreshold d) := by
    have hreached : decide (s.lac.quiet < Config.demotedThreshold c) = false := by
      rw [demotedThreshold_eq]
      exact decide_eq_false (Nat.not_lt.mpr hq)
    cases c <;> simp [PerClass.mapWith, PerClass.set, hreached]
  exact congrArg (fun flags => { s with lac := { s.lac with demoted := flags } }) hflags

theorem closedAtDeadline_of_no_mark (h : dueDeadline s = []) : closedAtDeadline s = s := by
  unfold closedAtDeadline closeAtDeadline
  split
  · next hc =>
    split
    · rfl
    · next n hw =>
      simp only [Bool.and_eq_true] at hc
      simp [dueDeadline, hw, hc.1, hc.2] at h
  · rfl

theorem takeMarks_of_demotionCleared {c : Sys2Proof.Class} (hnone : dueReceiver s = []) (hdeadline : dueDeadline s = [])
    (hm : s.lac.mode = .quiet) (hq : 13 + 2 * c.toNat ≤ s.lac.quiet) :
    takeMarks (demotionCleared c s) = takeMarks s := by
  have hquiet : demotionsCleared (demotionCleared c s) = demotionsCleared s := by
    simp only [demotionsCleared, clearReachedDemotions_cleared hq]
    simp [demotionCleared, hm]
  rw [takeMarks_of_no_receiver_mark (s := demotionCleared c s) hnone,
    closedAtDeadline_of_no_mark (s := demotionCleared c s) hdeadline, takeMarks_of_no_receiver_mark hnone,
    closedAtDeadline_of_no_mark hdeadline, hquiet]

/-! ### The first mark that is due -/

theorem dueMarks_first (h : dueMarks s = m :: rest) :
    m ∈ dueReceiver s ∨ (dueReceiver s = [] ∧ m ∈ dueDeadline s) ∨
      (dueReceiver s = [] ∧ dueDeadline s = [] ∧ m ∈ dueDemotions s) := by
  unfold dueMarks at h
  cases hr : dueReceiver s with
  | cons x xs => simp_all
  | nil =>
    cases hd : dueDeadline s with
    | cons x xs => simp_all
    | nil => simp_all

/-- The row of the first mark that is due does what taking the marks would have done with it (log 32), at a station
that goes on reading the line. -/
theorem exec_dueMark (hlow : s.resetLow = false) (hdrives : s.lac.mode.drives = false)
    (hdue : dueMarks s = m :: rest) (ht : exec m s = .next t) :
    takeMarks t = takeMarks s ∧ t.sc = s.sc ∧ t.resetLow = false ∧ t.lac.mode.drives = false := by
  rcases dueMarks_first hdue with hm | ⟨hnone, hm⟩ | ⟨hnone, hdeadline, hm⟩
  · rcases mem_dueReceiver.mp hm with ⟨rfl, hhunt, hg, hq⟩ | ⟨rfl, hw, hq⟩ | ⟨rfl, hrecover, hq⟩
    · rw [exec, execGapGuardClear, lineEvent_of _ hlow (by simp [hhunt, hg]),
        reachQuiet_of_reached (n := Config.responseGap) hq] at ht
      cases ht
      exact ⟨takeMarks_reachQuiet_zero s, rfl, hlow, hdrives⟩
    · have hreceiving : s.fr.mode.receiving = true := by
        simp only [waitsForCharacter, Bool.and_eq_true] at hw
        exact hw.1
      rw [exec, execGapLimitTruncation, lineEvent_of _ hlow hw, reachQuiet_of_receiving hreceiving,
        Nat.max_eq_left (show Config.gapLimit ≤ s.lac.quiet from hq)] at ht
      cases ht
      exact ⟨takeMarks_of_truncated hw hq, by simp, by simpa using hlow, endReception_drives _ hdrives⟩
    · rw [exec, execGapLimitRecover, lineEvent_of _ hlow (by simp [hrecover]),
        reachQuiet_of_reached (n := Config.gapLimit) hq] at ht
      cases ht
      exact ⟨takeMarks_reachQuiet_zero s, rfl, hlow, hdrives⟩
  · obtain ⟨rfl, hw, hquiet, hq⟩ := mem_dueDeadline.mp hm
    obtain ⟨n, hn⟩ := Option.ne_none_iff_exists'.mp hw
    simp only [exec, execNoResponse, hn] at ht
    rw [lineEvent_of _ hlow (by simp [hquiet]), reachQuiet_of_no_mark (n := Config.responseDeadline) hnone hq] at ht
    cases ht
    obtain ⟨_, hsc, hreset, _, hmode, _⟩ := closeAtDeadline_leaves s
    exact ⟨takeMarks_of_closed hnone hquiet hq, hsc, by rw [hreset, hlow], by rw [hmode, hdrives]⟩
  · obtain ⟨c, rfl, hquiet, hd, hq⟩ := mem_dueDemotions.mp hm
    rw [exec, execDemotionClear, lineEvent_of _ hlow (by simp [hquiet, hd]), demotedThreshold_eq,
      reachQuiet_of_no_mark hnone hq] at ht
    cases ht
    exact ⟨takeMarks_of_demotionCleared hnone hdeadline hquiet hq, rfl, hlow, hdrives⟩

/-! ### The start bit -/

theorem exec_startBit_of (hlow : s.resetLow = false) (hst : s.sc.station.readsLine = true)
    (hdrives : s.lac.mode.drives = false) : exec .startBit s = .next (takeStartBit (takeMarks s)) := by
  rw [exec, execStartBit, lineEvent_of _ hlow (by simp [hst, hdrives])]

/-- A frame has been opened by a start bit (R98, R21, R39). -/
def frameOpened (s : State) : State :=
  { s with
    lac := { s.lac with quiet := 0, order := none, window := none, mode := .receive }
    fr := { s.fr with
      mode := .header, guard := false, record := some { Rx.empty with candidate := s.lac.window.isSome } } }

/-- A start bit finds FR hunting with its guard clear, once the marks are taken. -/
theorem exec_startBit_opens (hlow : s.resetLow = false) (hst : s.sc.station.readsLine = true)
    (hdrives : s.lac.mode.drives = false) (hmarks : MarksTaken s)
    (hhunts : (s.fr.mode = .hunt ∧ (s.fr.guard = false ∨ 4 ≤ s.lac.quiet)) ∨
      (s.fr.mode = .recover ∧ 11 ≤ s.lac.quiet)) : exec .startBit s = .next (frameOpened s) := by
  rw [exec_startBit_of hlow hst hdrives, takeMarks_of_taken hmarks, reachQuiet, Nat.max_zero,
    Fr.atQuiet_hunts hhunts]
  rfl

/-- Settles O45: a start bit where the marks are taken, by the receiver state; and the marks, which a row may take
before it. -/
theorem startBitByTheReceiverState : Obligations.StartBitByTheReceiverState := by
  refine ⟨?_, fun s t m rest hlow hst hdrives hdue ht => ?_, fun s hloop => ?_⟩
  · rintro s _ hlow hst hdrives hmarks rfl
    refine ⟨fun hm hg => ?_, fun hm hg hq hr hw => ?_, fun hm hq => ?_, fun hm hq => ?_, fun r hm hr => ?_⟩
    · exact exec_startBit_opens hlow hst hdrives hmarks (.inl ⟨hm, hg⟩)
    · rw [exec_startBit_stray hlow hst hdrives hm hg hq hr]
      simp only [strayCandidate, strayed, hw]
    · rw [exec_startBit_of hlow hst hdrives, takeMarks_of_recover hm hq hmarks]
      simp only [takeStartBit, hm, otherDominant]
    · exact exec_startBit_opens hlow hst hdrives hmarks (.inr ⟨hm, hq⟩)
    · rw [exec_startBit_of hlow hst hdrives, takeMarks_of_taken hmarks, reachQuiet_of_receiving (receiving_of hm)]
      rcases hm with hm | hm | hm <;> simp [takeStartBit, hm, beginCharacter, hr]
  · obtain ⟨hmarks, hsc, hlow', hdrives'⟩ := exec_dueMark hlow hdrives hdue ht
    rw [exec_startBit_of hlow hst hdrives, exec_startBit_of hlow' (by rw [hsc]; exact hst) hdrives', hmarks]
  · rw [exec, execStartBit, lineEvent_of_not]
    simp [hloop, Station.readsLine]

end Sys2Proof.Machine
end

section
/-! SUPPORT. The header characters (R97, R99, R100, R101): the byte that a lost lead and the line make together, the
field of each character, and the malformed header. -/

namespace Sys2Proof.Machine

open Sys2Proof

variable {b v : Byte} {stop : LineBit} {s t u : State} {r x : Rx}

/-! ### The bits of a completed character -/

theorem dataBit_eq (bit : LineBit) : dataBit bit = decide (bit = .recessive) := by cases bit <;> rfl

/-- The number that bits sent most significant first make, bit by bit from the last. -/
theorem testBit_foldl_bits (bits : List LineBit) (k : Nat) :
    (bits.foldl (fun n bit => 2 * n + flagBit (dataBit bit)) 0).testBit k = dataBit (bits.reverse.getD k .dominant) := by
  induction bits using List.reverseRecOn generalizing k with
  | nil => simp [dataBit]
  | append_singleton bits bit ih =>
    rw [List.foldl_append, List.foldl_cons, List.foldl_nil, List.reverse_append, List.reverse_singleton,
      List.singleton_append]
    generalize bits.foldl _ 0 = n at ih ⊢
    have hhalf : (2 * n + flagBit (dataBit bit)) / 2 = n ∧
        (2 * n + flagBit (dataBit bit)).testBit 0 = dataBit bit := by
      cases dataBit bit
      · simp [flagBit]
      · simp only [flagBit, if_true, Nat.testBit_zero]
        exact ⟨by omega, by simp⟩
    cases k with
    | zero => simpa using hhalf.2
    | succ k => rw [Nat.testBit_succ, hhalf.1, ih, List.getD_cons_succ]

/-- Eight bits make a byte, the first of them its bit 7 (R3). -/
theorem byteOfBits_getLsbD {bits : List LineBit} (hlength : bits.length = 8) (i : Fin 8) :
    (byteOfBits bits).getLsbD (7 - i.val) = dataBit (bits.getD i.val .dominant) := by
  have hk : 7 - i.val < 8 := by omega
  have hplace : bits.length - 1 - (7 - i.val) = i.val := by omega
  rw [byteOfBits, byteOf, BitVec.getLsbD_ofNat, testBit_foldl_bits, List.getD_eq_getElem?_getD,
    List.getElem?_reverse (by omega), hplace, ← List.getD_eq_getElem?_getD]
  simp [hk]

/-- The lead bits that LAC passed on come first, and the line's bits complete them (R29, R97). -/
theorem completedByte_getLsbD {leadBits : List LineBit} (v : Byte) (i : Fin 8) (hlength : leadBits.length ≤ 8) :
    (completedByte leadBits v).getLsbD (7 - i.val) =
      match leadBits[i.val]? with
      | some bit => decide (bit = .recessive)
      | none => v.getLsbD (7 - i.val) := by
  have height : (dataBits v).length = 8 := rfl
  rw [completedByte, byteOfBits_getLsbD (by simp [height]; omega), List.getD_eq_getElem?_getD]
  by_cases hi : i.val < leadBits.length
  · rw [List.getElem?_append_left hi, List.getElem?_eq_getElem hi]
    exact dataBit_eq _
  · have hnone : leadBits[i.val]? = none := List.getElem?_eq_none (by omega)
    rw [List.getElem?_append_right (by omega), List.getElem?_drop, Nat.add_sub_cancel' (by omega), hnone,
      ← List.getD_eq_getElem?_getD, dataBits_getD, dataBit_lineBit]

/-! ### The fields of the header -/

/-- The record once a covered character is counted and has entered the check register. -/
def Rx.covered (b : Byte) (r : Rx) : Rx := { r.counted with crc := crcByte r.crc b }

/-- The state in which a header character is used as its field. -/
def headerCounted (b : Byte) (r : Rx) (u : State) : State :=
  { u with
    lac := { u.lac with quiet := quietAtStop b .recessive }
    fr := { u.fr with record := some (r.covered b) } }

/-- A header character that arrives is counted, and is the field that the count names (R99, R100). -/
theorem exec_characterReceived_header (h : CharacterArrives v stop s r b .recessive u) (hm : s.fr.mode = .header) :
    exec (.characterReceived v stop) s = .next (takeHeader b (r.covered b) (headerCounted b r u)) := by
  rw [(exec_characterReceived_arrives h (by rw [hm]; rfl)).2 rfl]
  have hu : u.fr.mode = .header := by rw [h.keeps.1, hm]
  simp only [takeComplete, hu]
  rfl

theorem takeHeader_of_lead (hc : r.count = 0) : takeHeader b (r.covered b) s = takeLead b (r.covered b) s := by
  simp [takeHeader, Rx.covered, Rx.counted, hc]

theorem takeHeader_of_control (hc : r.count = 1) : takeHeader b (r.covered b) s = takeControl b (r.covered b) s := by
  simp [takeHeader, Rx.covered, Rx.counted, hc]

theorem takeHeader_of_dest (hc : r.count = 2) : takeHeader b (r.covered b) s = takeDest b (r.covered b) s := by
  simp [takeHeader, Rx.covered, Rx.counted, hc]

theorem takeHeader_of_fourth (hc : r.count = 3) : takeHeader b (r.covered b) s = takeFourth b (r.covered b) s := by
  simp [takeHeader, Rx.covered, Rx.counted, hc]

/-! ### LEAD -/

theorem takeLead_of_node (h : b.toNat % 64 ≤ 47) :
    takeLead b x s = setRecord { x with cls := classOf (b.toNat / 64), src := b.toNat % 64 } s :=
  if_neg (Nat.not_lt.mpr h)

theorem takeLead_malformed (h : 47 < b.toNat % 64) : takeLead b x s = endReception .malformed s := if_pos h

/-! ### CONTROL -/

theorem kindOf_kindCode (k : Kind) : kindOf (kindCode k) = some k := by cases k <;> rfl

theorem kindOf_of_other {n : Nat} (h : n = 0 ∨ 5 < n) : kindOf n = none := by
  rcases h with rfl | h
  · rfl
  · unfold kindOf
    split
    case h_6 => rfl
    all_goals omega

theorem takeControl_of_kind {k : Kind} (h : kindCode k = b.toNat / 16) :
    takeControl b x s = setRecord { x with kind := k, seq := b.getLsbD 0, resync := b.getLsbD 1 } s := by
  simp only [takeControl, ← h, kindOf_kindCode]

theorem takeControl_malformed (h : b.toNat / 16 = 0 ∨ 5 < b.toNat / 16) :
    takeControl b x s = endReception .malformed s := by
  simp only [takeControl, kindOf_of_other h]

/-! ### DEST -/

theorem destAllowed_iff {k : Kind} {d : Nat} :
    destAllowed k d = true ↔
      ((k = .data ∨ k = .ack ∨ k = .busy) ∧ d ≤ 47) ∨ (k = .datagram ∧ d ≤ 63) ∨ (k = .ready ∧ d = 63) := by
  cases k <;> simp [destAllowed] <;> rfl

/-- The acceptance decision (R101). -/
theorem acceptance_eq (s : State) (d : Nat) :
    acceptance s d =
      if d ≤ 47 then (if s.sc.address = some d then some .own else none)
      else if d ≤ 62 then (if d ∈ s.fr.groups then some .group else none)
      else if s.cfg.broadcastAccept then some .broadcast else none := by
  simp [acceptance, Config.maxNode, Config.maxGroup]

theorem takeDest_of_message (hk : x.kind = .data ∨ x.kind = .datagram) (hd : destAllowed x.kind b.toNat = true) :
    takeDest b x s = setRecord { x with dest := b.toNat, accepted := acceptance s b.toNat } s := by
  rcases hk with hk | hk <;> rw [hk] at hd <;> simp [takeDest, hk, hd]

theorem takeDest_of_other (hk : x.kind = .ack ∨ x.kind = .busy ∨ x.kind = .ready)
    (hd : destAllowed x.kind b.toNat = true) :
    takeDest b x s = setRecord { x with dest := b.toNat, accepted := none } s := by
  rcases hk with hk | hk | hk <;> rw [hk] at hd <;> simp [takeDest, hk, hd]

theorem takeDest_malformed (hd : ¬ destAllowed x.kind b.toNat = true) :
    takeDest b x s = endReception .malformed s := if_neg hd

/-! ### The malformed header -/

/-- A character with which the header is malformed (R100, R16), by the count before it. -/
def MalformsHeader (r : Rx) (b : Byte) : Prop :=
  (r.count = 0 ∧ 47 < b.toNat % 64) ∨
  (r.count = 1 ∧ (b.toNat / 16 = 0 ∨ 5 < b.toNat / 16)) ∨
  (r.count = 2 ∧ (r.kind = .data ∨ r.kind = .ack ∨ r.kind = .busy) ∧ 47 < b.toNat) ∨
  (r.count = 2 ∧ r.kind = .datagram ∧ 63 < b.toNat) ∨
  (r.count = 2 ∧ r.kind = .ready ∧ b.toNat ≠ 63) ∨
  (r.count = 3 ∧ (r.kind = .data ∨ r.kind = .datagram) ∧ 240 < b.toNat) ∨
  (r.count = 3 ∧ r.kind = .ready ∧ 16 < b.toNat)

theorem takeFourth_malformed (h : ((x.kind = .data ∨ x.kind = .datagram) ∧ 240 < b.toNat) ∨
    (x.kind = .ready ∧ 16 < b.toNat)) : takeFourth b x s = endReception .malformed s := by
  rcases h with ⟨hk | hk, hlength⟩ | ⟨hk, hlength⟩ <;>
    simp [takeFourth, hk, Config.maxLength, Config.listCapacity, hlength]

theorem takeHeader_malformed (h : MalformsHeader r b) :
    takeHeader b (r.covered b) s = endReception .malformed s := by
  have hdest (hc : r.count = 2) (hno : ¬ destAllowed r.kind b.toNat = true) :
      takeHeader b (r.covered b) s = endReception .malformed s := by
    rw [takeHeader_of_dest hc]
    exact takeDest_malformed (x := r.covered b) hno
  rcases h with ⟨hc, hsrc⟩ | ⟨hc, hkind⟩ | ⟨hc, hk, hd⟩ | ⟨hc, hk, hd⟩ | ⟨hc, hk, hd⟩ | ⟨hc, hlength⟩ | ⟨hc, hlength⟩
  · rw [takeHeader_of_lead hc, takeLead_malformed hsrc]
  · rw [takeHeader_of_control hc, takeControl_malformed hkind]
  · exact hdest hc (by rw [destAllowed_iff]; rcases hk with hk | hk | hk <;> simp [hk] <;> omega)
  · exact hdest hc (by rw [destAllowed_iff]; simp [hk]; omega)
  · exact hdest hc (by rw [destAllowed_iff]; simp [hk, hd])
  · rw [takeHeader_of_fourth hc]
    exact takeFourth_malformed (x := r.covered b) (.inl hlength)
  · rw [takeHeader_of_fourth hc]
    exact takeFourth_malformed (x := r.covered b) (.inr hlength)

/-- Settles O46: the byte that arrives, then the field that the count names, or the malformed end. -/
theorem headerCharactersAreRecorded : Obligations.HeaderCharactersAreRecorded := by
  refine ⟨fun leadBits v i hlength => completedByte_getLsbD v i hlength, ?_⟩
  rintro v stop s u r b _ h hm rfl
  obtain ⟨hfr, hsc, hcfg, _, _, _, _, hmode, _⟩ := h.keeps
  rw [exec_characterReceived_header h hm]
  refine ⟨fun hc hsrc c hcls => ?_, fun hc k hk => ?_, fun hc hk hd => ?_, fun hc hk => ?_, ?_⟩
  · rw [takeHeader_of_lead hc, takeLead_of_node hsrc, ← hcls, classOf_toNat]
    simp only [headerCounted, setRecord, Rx.covered, Rx.counted, hc]
  · rw [takeHeader_of_control hc, takeControl_of_kind hk]
    simp only [headerCounted, setRecord, Rx.covered, Rx.counted, hc]
  · have hallowed : destAllowed r.kind b.toNat = true := by
      rw [destAllowed_iff]
      rcases hk with hk | hk <;> simp [hk] at hd ⊢ <;> omega
    rw [takeHeader_of_dest hc, takeDest_of_message (x := r.covered b) hk hallowed, acceptance_eq]
    simp only [headerCounted, setRecord, Rx.covered, Rx.counted, hc, hfr, hsc, hcfg]
  · have hallowed : destAllowed r.kind b.toNat = true := by
      rw [destAllowed_iff]
      rcases hk with ⟨hk | hk, hd⟩ | ⟨hk, hd⟩ <;> simp [hk, hd]
    have hother : r.kind = .ack ∨ r.kind = .busy ∨ r.kind = .ready := by
      rcases hk with ⟨hk | hk, _⟩ | ⟨hk, _⟩ <;> simp [hk]
    rw [takeHeader_of_dest hc, takeDest_of_other (x := r.covered b) hother hallowed]
    simp only [headerCounted, setRecord, Rx.covered, Rx.counted, hc]
  · rintro hmalformed _ rfl
    rw [takeHeader_malformed hmalformed]
    exact ⟨_, rfl, endReception_malformed (x := r.covered b) (u := headerCounted b r u) (s := s) rfl hmode⟩

end Sys2Proof.Machine
end

section
/-! SUPPORT. The frame end (R106): what a good frame of each kind leaves (R108, R154), damage, and the append (R117,
R122, R124, R195) as one equation. -/

namespace Sys2Proof.Machine

open Sys2Proof

variable {b v : Byte} {stop : LineBit} {s t u c : State} {r x : Rx} {sort : DestSort} {p : Peer}

/-! ### The append -/

/-- The window's offset at a change of the head (R195). -/
theorem followHead_eq (s : State) : followHead s = { s with hp := { s.hp with winOfs := offsetAtNewHead s } } := by
  unfold followHead offsetAtNewHead
  split
  · next hslot => rw [if_neg (by simp [hslot])]
  · next hhead => rw [if_pos hhead]

/-- Congestion is entered where the level has reached HIWAT (R124). -/
theorem testEntry_eq (s : State) :
    testEntry s = { s with
      rq := { s.rq with congested := s.rq.congested || decide (s.cfg.hiwat ≤ s.rq.entries.length) }
      iu := { s.iu with flowEntered :=
        s.iu.flowEntered || (!s.rq.congested && decide (s.cfg.hiwat ≤ s.rq.entries.length)) } } := by
  unfold testEntry
  split
  · next henters =>
    obtain ⟨hbefore, hreached⟩ : s.rq.congested = false ∧ s.cfg.hiwat ≤ s.rq.entries.length := by
      simpa [level] using henters
    simp [enterCongestion, hbefore, hreached]
  · next hstays =>
    have hnew : (!s.rq.congested && decide (s.cfg.hiwat ≤ s.rq.entries.length)) = false := by
      exact Bool.eq_false_of_not_eq_true hstays
    have hsame : (s.rq.congested || decide (s.cfg.hiwat ≤ s.rq.entries.length)) = s.rq.congested := by
      cases hc : s.rq.congested
      · simpa [hc] using hnew
      · rfl
    rw [hnew, hsame, Bool.or_false]

/-- The stale timer, then the test at HIWAT, where an entry stands at the tail (R122, R124). -/
theorem testEntry_restartStale {e : Entry} {es : List Entry} (h : s.rq.entries = es ++ [e]) :
    testEntry (restartStale s) = { s with
      rq := { s.rq with
        rxStale := false
        stale := if es.length + 1 < s.cfg.rxtrig then some 0 else none
        congested := s.rq.congested || decide (s.cfg.hiwat ≤ es.length + 1) }
      iu := { s.iu with flowEntered :=
        s.iu.flowEntered || (!s.rq.congested && decide (s.cfg.hiwat ≤ es.length + 1)) } } := by
  have hlength : s.rq.entries.length = es.length + 1 := by simp [h]
  rw [testEntry_eq, restartStale_rq_entries, hlength]
  simp [restartStale, staleRange, level, hlength]

/-- The entry stands at the tail with its LOSS_BEFORE, and the window follows a new head (R117, R195). -/
def placeEntry (e : Entry) (s : State) : State :=
  { s with
    rq := { s.rq with
      entries := s.rq.entries ++ [{ e with tags := { e.tags with lossBefore := s.rq.loss } }]
      loss := false }
    hp := { s.hp with winOfs := if s.rq.entries = [] then offsetAtNewHead s else s.hp.winOfs } }

theorem appendEntry_eq_placeEntry (e : Entry) (s : State) :
    appendEntry e s = testEntry (restartStale (placeEntry e s)) := by
  refine congrArg (fun u => testEntry (restartStale u)) ?_
  by_cases hempty : s.rq.entries = []
  · rw [if_pos (by simp [hempty]), followHead_eq, placeEntry, if_pos hempty]
    rfl
  · rw [if_neg (by simp [hempty]), placeEntry, if_neg hempty]

theorem appendEntry_eq (e : Entry) (s : State) :
    appendEntry e s = { s with
      rq := { s.rq with
        entries := s.rq.entries ++ [{ e with tags := { e.tags with lossBefore := s.rq.loss } }]
        loss := false
        rxStale := false
        stale := if s.rq.entries.length + 1 < s.cfg.rxtrig then some 0 else none
        congested := s.rq.congested || decide (s.cfg.hiwat ≤ s.rq.entries.length + 1) }
      iu := { s.iu with flowEntered :=
        s.iu.flowEntered || (!s.rq.congested && decide (s.cfg.hiwat ≤ s.rq.entries.length + 1)) }
      hp := { s.hp with winOfs := if s.rq.entries = [] then offsetAtNewHead s else s.hp.winOfs } } := by
  rw [appendEntry_eq_placeEntry, testEntry_restartStale (es := s.rq.entries) rfl]
  rfl

/-! ### A good frame by its kind -/

theorem dealGood_of_response (hk : r.kind = .ack ∨ r.kind = .busy) (c : State) : dealGood r c = c := by
  rcases hk with hk | hk <;> simp [dealGood, hk]

/-- A good frame that was not accepted is released uncounted (R108). -/
theorem dealGood_of_unaccepted (hacc : r.accepted = none) (hk : r.kind = .data ∨ r.kind = .datagram) (c : State) :
    dealGood r c = releaseChain r.chain c := by
  rcases hk with hk | hk <;> simp [dealGood, hk, hacc]

/-- A good accepted frame that is not for the receiver decision counts and goes to the queue (R108). -/
theorem dealGood_of_accepted (hacc : r.accepted = some sort)
    (hk : r.kind = .datagram ∨ (r.kind = .data ∧ (c.sc.station = .listen ∨ c.sc.station = .silent))) :
    dealGood r c = queueGood r sort (countEvent .received c) := by
  rcases hk with hk | ⟨hk, hst⟩
  · simp [dealGood, hk, hacc]
  · have hsends : c.sc.station.sends = false := by rcases hst with hst | hst <;> rw [hst] <;> rfl
    simp [dealGood, hk, hacc, countEvent, hsends]

/-- Where the claim holds just the blocks that the length needs, the whole chain goes to the entry (R56, R117). -/
theorem keepEntry_of_exact {e : Entry} {chain : List Block} (h : chain.length = blocksFor e.length) (s : State) :
    keepEntry e chain s = appendEntry { e with chain := chain } s := by
  simp [keepEntry, ← h, releaseChain]

/-- DATA kept where the station only hears is UNANSWERED (R108). -/
theorem unansweredTag_eq
    (hk : r.kind = .datagram ∨ (r.kind = .data ∧ (c.sc.station = .listen ∨ c.sc.station = .silent))) :
    unansweredTag r c = decide (r.kind = .data) := by
  rcases hk with hk | ⟨hk, hst | hst⟩ <;> simp [unansweredTag, Station.onlyHears, *]

theorem queueGood_of_claimed (hclaim : r.claim = .succeeded) (hchain : r.chain.length = blocksFor r.length)
    (sort : DestSort) (c : State) :
    queueGood r sort c = appendEntry
      { entryOf r sort r.length none { Tags.none with unanswered := unansweredTag r c } with chain := r.chain } c := by
  rw [queueGood, if_pos hclaim]
  exact keepEntry_of_exact hchain c

theorem queueGood_of_unclaimed (hclaim : r.claim ≠ .succeeded) (sort : DestSort) (c : State) :
    queueGood r sort c = reportLoss (releaseChain r.chain c) := if_neg hclaim

/-! ### READY -/

/-- A READY releases its source when the entry is remote busy and the list names this station (R154). -/
theorem takeReady_spec (r : Rx) (s : State) :
    ∃ named : Bool, (named = true ↔ readyNames r s) ∧
      takeReady r s = match findPeer s.pt r.src with
        | none => s
        | some p => if p.remoteBusy && named then releasePeer r.src s else s := by
  refine ⟨_, ?_, rfl⟩
  cases haddress : s.sc.address with
  | none => simp [readyNames, haddress]
  | some a => simp [readyNames, haddress, eq_comm (a := a)]

theorem takeReady_passed (h : ∀ p, findPeer s.pt r.src = some p → p.holdoff = none ∨ ¬ readyNames r s) :
    takeReady r s = s := by
  obtain ⟨named, hnamed, htake⟩ := takeReady_spec r s
  rw [htake]
  split
  · rfl
  · next p hp =>
    refine if_neg fun hrelease => ?_
    obtain ⟨hbusy, hname⟩ : p.remoteBusy = true ∧ named = true := by simpa using hrelease
    rcases h p hp with hfree | hother
    · simp [Peer.remoteBusy, hfree] at hbusy
    · exact hother (hnamed.mp hname)

theorem takeReady_releases (hp : findPeer s.pt r.src = some p) (hbusy : p.holdoff ≠ none) (hnames : readyNames r s) :
    takeReady r s = releasePeer r.src s := by
  obtain ⟨named, hnamed, htake⟩ := takeReady_spec r s
  have hremote : p.remoteBusy = true := Option.isSome_iff_ne_none.mpr hbusy
  simp [htake, hp, hremote, hnamed.mpr hnames]

/-- The release of a peer causes a re-evaluation (R154, R74). -/
theorem releasePeer_reevaluated (node : Nat) (c : State) :
    Reevaluated { c with
      pt := c.pt.map fun q => if q.node = node then { q with holdoff := none } else q
      iu := { c.iu with flowReleased := true } } (releasePeer node c) := reevaluate_spec _

/-! ### The frame end -/

/-- The state at a frame end, with the reception over and a failed candidate reported (R106, R109). -/
def atFrameEnd (r : Rx) (b : Byte) (u : State) : State :=
  candidateFailed r (receptionOver .hunt (decide (quietAtStop b .recessive < 4)) (quietAtStop b .recessive) u)

/-- The state whose reception ends: the last character is counted (R99). -/
def lastCounted (r : Rx) (b : Byte) (u : State) : State :=
  { u with
    lac := { u.lac with quiet := quietAtStop b .recessive }
    fr := { u.fr with record := some r.counted } }

/-- FR hunts after the frame end, whether or not the check is good (R106). -/
theorem endedUnanswered_lastCounted (r : Rx) (b : Byte) (u : State) :
    endedUnanswered .good r.counted (lastCounted r b u) = atFrameEnd r b u ∧
    endedUnanswered .badCheck r (lastCounted r b u) = atFrameEnd r b u := ⟨rfl, rfl⟩

theorem atFrameEnd_sc (r : Rx) (b : Byte) (u : State) : (atFrameEnd r b u).sc = u.sc :=
  (candidateFailed_keeps r _).1

/-- A good frame that is no answer to an attempt is dealt with at its end. -/
theorem frameEnds_good (h : FrameEnds v stop s r b u) (hcheck : checkChars r.crc = [r.checkHigh, b])
    (hfailed : r.candidate = false ∨ (r.kind ≠ .ack ∧ r.kind ≠ .busy))
    (ht : t = dealGood r.counted (atFrameEnd r b u)) :
    ∃ t', exec (.characterReceived v stop) s = .next t' ∧ ReturnsToQuiet s t t' := by
  obtain ⟨_, _, _, _, _, _, _, hmode, _⟩ := h.1.keeps
  have hdealt := endReception_good (x := r.counted) (u := lastCounted r b u) (s := s) rfl hmode hfailed
  rw [(endedUnanswered_lastCounted r b u).1, ← ht] at hdealt
  rw [exec_characterReceived_frameEnd h, if_pos hcheck]
  exact ⟨_, rfl, hdealt⟩

theorem frameEnds_bad (h : FrameEnds v stop s r b u) (hcheck : checkChars r.crc ≠ [r.checkHigh, b]) :
    ∃ t, exec (.characterReceived v stop) s = .next t ∧
      ReturnsToQuiet s (damagedDealt r r.length none
        { Tags.none with crcBad := true, unanswered := unanswered r s } (atFrameEnd r b u)) t := by
  obtain ⟨hfr, hsc, _, _, _, _, _, hmode, _⟩ := h.1.keeps
  have hu : (lastCounted r b u).fr.mode = .check := (congrArg Fr.mode hfr).trans h.2.1
  have hdealt := endReception_damaged (how := .badCheck) (r := r) (x := r.counted) (u := lastCounted r b u) (s := s)
    rfl hmode hsc (by decide) (by decide) (.inr rfl)
  rw [(endedUnanswered_lastCounted r b u).2, if_pos hu] at hdealt
  rw [exec_characterReceived_frameEnd h, if_neg hcheck]
  exact ⟨_, rfl, hdealt⟩

/-- A framing error ends the frame as damaged, with FR in RECOVER (R99). -/
theorem framing_damaged (h : CharacterArrives v stop s r b .dominant u)
    (hm : s.fr.mode = .header ∨ s.fr.mode = .body ∨ s.fr.mode = .check) :
    ∃ t, exec (.characterReceived v stop) s = .next t ∧
      ReturnsToQuiet s (damagedDealt r (if s.fr.mode = .check then r.length else r.received) none
        { Tags.none with framing := true, unanswered := unanswered r s }
        (candidateFailed r (receptionOver .recover false 0 u))) t := by
  obtain ⟨hfr, hsc, _, _, _, _, _, hmode, _⟩ := h.keeps
  have hreceiving : s.fr.mode.receiving = true := by rcases hm with hm | hm | hm <;> rw [hm] <;> rfl
  rw [(exec_characterReceived_arrives h hreceiving).1 rfl, ← hfr]
  exact ⟨_, rfl, endReception_damaged (how := .framing) (r := r) (x := r)
    (u := { u with lac := { u.lac with quiet := quietAtStop b .dominant } })
    (by rw [hfr]; exact h.2.1) hmode hsc (by decide) (by decide) (.inl rfl)⟩

/-- Settles O49: the frame end by its check, the good frame by its kind, a framing error, and the append. -/
theorem goodDatagramIsAppended : Obligations.GoodDatagramIsAppended := by
  refine ⟨?_, fun v stop s u r b => framing_damaged, ?_⟩
  · rintro v stop s u _ r b hends rfl
    have hsc : (atFrameEnd r b u).sc = s.sc := by
      obtain ⟨_, hsc, _⟩ := hends.1.keeps
      rw [atFrameEnd_sc, hsc]
    refine ⟨fun hcheck => ⟨fun sort hacc hk => ?_, fun hacc hk => ?_, fun hk => ?_, fun hk hcand => ?_⟩,
      frameEnds_bad hends⟩
    · have hfailed : r.kind ≠ .ack ∧ r.kind ≠ .busy := by rcases hk with hk | ⟨hk, _⟩ <;> simp [hk]
      rw [← hsc] at hk
      have hdealt : dealGood r.counted (atFrameEnd r b u) = _ := dealGood_of_accepted hacc hk
      refine ⟨fun hclaim hchain => ?_, fun hclaim => ?_⟩
      · refine frameEnds_good hends hcheck (.inr hfailed) ?_
        rw [hdealt, queueGood_of_claimed (r := r.counted) hclaim hchain,
          unansweredTag_eq (r := r.counted) (c := countEvent .received _) hk]
        rfl
      · refine frameEnds_good hends hcheck (.inr hfailed) ?_
        rw [hdealt, queueGood_of_unclaimed (r := r.counted) hclaim]
        rfl
    · refine frameEnds_good hends hcheck (.inr (by rcases hk with hk | hk <;> simp [hk])) ?_
      rw [dealGood_of_unaccepted (r := r.counted) hacc hk]
      rfl
    · have hfailed : r.kind ≠ .ack ∧ r.kind ≠ .busy := by simp [hk]
      have hdealt : dealGood r.counted (atFrameEnd r b u) = takeReady r.counted (atFrameEnd r b u) := by
        simp [dealGood, Rx.counted, hk]
      have hnames : readyNames r.counted (atFrameEnd r b u) ↔ readyNames r s := by
        rw [readyNames, readyNames, hsc]
        rfl
      refine ⟨fun hpasses => ?_, fun p hp hbusy hnamed => ?_⟩
      · refine frameEnds_good hends hcheck (.inr hfailed) ?_
        rw [hdealt]
        exact (takeReady_passed fun p hp => (hpasses p hp).imp_right (mt hnames.mp)).symm
      · obtain ⟨t, hexec, hquiet⟩ := frameEnds_good hends hcheck (.inr hfailed)
          (hdealt.trans (takeReady_releases hp hbusy (hnames.mpr hnamed))).symm
        exact ⟨t, _, hexec, releasePeer_reevaluated r.src _, hquiet⟩
    · refine frameEnds_good hends hcheck (.inl hcand) ?_
      exact (dealGood_of_response (r := r.counted) hk _).symm
  · rintro e s _ rfl
    exact appendEntry_eq e s

end Sys2Proof.Machine
end

section
/-! SUPPORT. The commands of the Receive Queue: RELEASE (R119), FLUSH (R120), PAUSE and RESUME (R126), the test of
congestion that follows a fall of the level (R124), and how new contents reach a held notice (R129, R130). -/

namespace Sys2Proof.Machine

open Sys2Proof

variable {s u t : State}

theorem exec_release (h : s.resetLow = false) : exec .release s = .next (releaseBody (recordCode 0x20 s)) := by
  rw [exec, execRelease, hostAccess_of_high _ h]

theorem exec_flush (h : s.resetLow = false) : exec .flush s = .next (flushBody (recordCode 0x21 s)) := by
  rw [exec, execFlush, hostAccess_of_high _ h]

theorem exec_pause (h : s.resetLow = false) : exec .pause s = .next (pauseBody (recordCode 0x22 s)) := by
  rw [exec, execPause, hostAccess_of_high _ h]

theorem exec_resume (h : s.resetLow = false) : exec .resume s = .next (resumeBody (recordCode 0x23 s)) := by
  rw [exec, execResume, hostAccess_of_high _ h]

/-! ### The way out of congestion -/

theorem leaveCongestion_spec (s : State) : CongestionLeft s (leaveCongestion s) := by
  unfold CongestionLeft
  split
  · next hpaused => exact if_pos hpaused
  · next hpaused =>
    simp only [leaveCongestion, if_neg hpaused]
    exact buildNotice_spec _

theorem testExit_of_stays (h : s.rq.congested = false ∨ s.cfg.lowat < s.rq.entries.length) : testExit s = s := by
  refine if_neg ?_
  rcases h with hfree | habove
  · simp [hfree]
  · simp [level, Nat.not_le.mpr habove]

theorem testExit_leaves (hcongested : s.rq.congested = true) (hlow : s.rq.entries.length ≤ s.cfg.lowat) :
    CongestionLeft s (testExit s) := by
  have hexit : testExit s = leaveCongestion s := if_pos (by simp [level, hcongested, hlow])
  exact hexit ▸ leaveCongestion_spec s

/-- The results of a command do not bear on the way out of congestion. -/
theorem CongestionLeft.answer (c : Cst) (r : Quad) (h : CongestionLeft u t) :
    CongestionLeft (Machine.answer c r u) (Machine.answer c r t) := by
  unfold CongestionLeft at h ⊢
  split at h
  · next hpaused =>
    rw [if_pos (show (Machine.answer c r u).rq.paused = true from hpaused), h]
    rfl
  · next hpaused =>
    rw [if_neg (show ¬ (Machine.answer c r u).rq.paused = true from hpaused)]
    exact NoticeBuilt.answer c r h

/-! ### RELEASE -/

theorem staleRange_iff : staleRange s = true ↔ 0 < s.rq.entries.length ∧ s.rq.entries.length < s.cfg.rxtrig := by
  rw [staleRange, Bool.and_eq_true, decide_eq_true_eq, decide_eq_true_eq, level]

/-- RXSTALE is cleared, and the stale timer runs from 0 just where the level lies above 0 and below RXTRIG (R122). -/
theorem restartStale_eq (s : State) :
    restartStale s = { s with rq := { s.rq with
      rxStale := false
      stale := if 0 < s.rq.entries.length ∧ s.rq.entries.length < s.cfg.rxtrig then some 0 else none } } := by
  rw [restartStale, if_congr staleRange_iff rfl rfl]

/-- The head has left, with what follows its leaving but the test of congestion (R119, R122, R195). -/
def headReleased (e : Entry) (rest : List Entry) (s : State) : State :=
  { s with
    bp := { s.bp with free := s.bp.free ++ e.chain }
    rq := { s.rq with
      entries := rest, rxStale := false
      stale := if 0 < rest.length ∧ rest.length < s.cfg.rxtrig then some 0 else none }
    hp := { s.hp with winOfs := offsetAtNewHead s } }

theorem releaseBody_of_empty (h : u.rq.entries = []) : releaseBody u = answerBare .empty u := by
  simp only [releaseBody, h]

theorem releaseBody_of_head {e : Entry} {rest : List Entry} (h : u.rq.entries = e :: rest) :
    releaseBody u = answer .ok (resultByte (byteOf rest.length)) (testExit (headReleased e rest u)) := by
  simp only [releaseBody, h]
  rw [followHead_eq, restartStale_eq]
  rfl

/-! ### FLUSH -/

/-- Every entry has left, with what follows their leaving but the test of congestion (R120, R195, log 31). -/
def queueFlushed (s : State) : State :=
  { s with
    bp := { s.bp with free := s.bp.free ++ (s.rq.entries.map Entry.chain).flatten }
    rq := { s.rq with entries := [], rxStale := false, stale := none }
    hp := { s.hp with winOfs := if s.rq.entries = [] then s.hp.winOfs else offsetAtNewHead s } }

/-- The window follows the head where there was one (R195, log 31). -/
theorem flushBody_eq (u : State) :
    flushBody u = answer .ok (resultByte (byteOf u.rq.entries.length)) (testExit (queueFlushed u)) := by
  unfold flushBody queueFlushed
  cases hentries : u.rq.entries with
  | nil => rfl
  | cons e rest =>
    simp only [List.isEmpty_cons, Bool.false_eq_true, if_false, reduceCtorEq]
    rw [followHead_eq]
    rfl

/-- Settles O26: what leaves the queue, then the test at LOWAT, which a queue of level 0 always passes. -/
theorem releaseAndFlush : Obligations.ReleaseAndFlush := by
  refine ⟨fun s hhigh => ⟨fun hempty => ?_, ?_⟩, ?_⟩
  · rw [exec_release hhigh, releaseBody_of_empty (u := recordCode 0x20 s) hempty]
    rfl
  · rintro e rest _ hentries rfl
    rw [exec_release hhigh, releaseBody_of_head (u := recordCode 0x20 s) hentries]
    refine ⟨fun hstays => ?_, fun hcongested hlow => ⟨_, rfl, ?_⟩⟩
    · rw [testExit_of_stays (s := headReleased e rest (recordCode 0x20 s)) hstays]
      rfl
    · exact (testExit_leaves (s := headReleased e rest (recordCode 0x20 s)) hcongested hlow).answer _ _
  · rintro s _ hhigh rfl
    rw [exec_flush hhigh, flushBody_eq]
    refine ⟨fun hfree => ?_, fun hcongested => ⟨_, rfl, ?_, ?_, ?_, ?_⟩⟩
    · rw [testExit_of_stays (s := queueFlushed (recordCode 0x21 s)) (.inl hfree)]
      rfl
    · simp [answer, queueFlushed]
    · simp [answer, queueFlushed]
    · simp [answer, queueFlushed]
    · exact (testExit_leaves (s := queueFlushed (recordCode 0x21 s)) hcongested (Nat.zero_le _)).answer _ _

/-! ### PAUSE and RESUME -/

/-- The paused flag cleared. -/
def clearPaused (s : State) : State := { s with rq := { s.rq with paused := false } }

theorem clearPaused_of_not_paused (h : s.rq.paused = false) : clearPaused s = s := by
  rw [clearPaused, ← h]

/-- RESUME without pause, or in congestion, only clears the flag (R126). -/
theorem resumeBody_of_stays (h : u.rq.paused = false ∨ u.rq.congested = true) :
    resumeBody u = answerBare .ok (clearPaused u) := by
  have htest : ¬ (u.rq.paused && !u.rq.congested) = true := by
    rcases h with h | h <;> simp [h]
  exact congrArg (answerBare .ok) (if_neg htest)

/-- RESUME that leaves the station neither congested nor paused builds the notice (R126, R128). -/
theorem resumeBody_of_leaves (hpaused : u.rq.paused = true) (hcongested : u.rq.congested = false) :
    resumeBody u = answerBare .ok (buildNotice (clearPaused u)) :=
  congrArg (answerBare .ok) (if_pos (by simp [hpaused, hcongested]))

/-! ### New contents for a held notice -/

/-- "All" absorbs every list, and two lists join without repetition until they would name more than 16 (R129). -/
theorem Named.merge_eq (held new : Named) :
    held.merge new =
      match held, new with
      | .all, _ => .all
      | .list _, .all => .all
      | .list a, .list b =>
        if 16 < (a ++ b.filter fun x => decide (x ∉ a)).length then .all
        else .list (a ++ b.filter fun x => decide (x ∉ a)) := by
  cases held with
  | all => rfl
  | list a =>
    cases new with
    | all => rfl
    | list b => simp [Named.merge, Config.listCapacity]

theorem Notice.add_of_pending {n : Notice} (new : Named) (h : n.committed = false) :
    n.add new = { n with contents := n.contents.merge new } :=
  if_neg (by simp [h])

theorem Notice.add_of_committed {n : Notice} (new : Named) (h : n.committed = true) :
    n.add new = { n with deferred :=
      match n.deferred with
      | none => some new
      | some d => some (d.merge new) } := by
  unfold Notice.add
  rw [if_pos h]
  cases n.deferred <;> rfl

/-- Settles O27: the flag, then the build where neither reason is left, and the merge by the notice's commitment. -/
theorem pauseAndResume : Obligations.PauseAndResume := by
  refine ⟨fun s hhigh => ?_, Named.merge_eq, fun n new => ⟨Notice.add_of_pending new, Notice.add_of_committed new⟩⟩
  rw [exec_pause hhigh, exec_resume hhigh]
  refine ⟨?_, fun hfree => ?_, fun _ hcongested => ?_, fun hpaused hfree => ⟨_, rfl, ?_⟩⟩
  · rfl
  · rw [resumeBody_of_stays (u := recordCode 0x23 s) (.inl hfree),
      clearPaused_of_not_paused (s := recordCode 0x23 s) hfree]
    rfl
  · rw [resumeBody_of_stays (u := recordCode 0x23 s) (.inr hcongested)]
    rfl
  · rw [resumeBody_of_leaves (u := recordCode 0x23 s) hpaused hfree]
    exact (buildNotice_spec (clearPaused (recordCode 0x23 s))).answer .ok .zero

end Sys2Proof.Machine
end

section
/-! SUPPORT. The bounds of the peer table (R139) through each operation over its entries, and through each shared
operation of the scheduler, the queue and the receiver. -/

namespace Sys2Proof.Machine

open Sys2Proof

/-! ### The operations over the entries -/

/-- At most 16 entries, with distinct nodes: the law of the peer table, said of the list alone (R139). -/
def PeersBounded (ps : List Peer) : Prop := ps.length ≤ 16 ∧ (ps.map Peer.node).Nodup

theorem peerLaw_iff {s : State} : PeerLaw s ↔ PeersBounded s.pt := Iff.rfl

namespace PeersBounded

variable {ps : List Peer} {node : Nat}

theorem map {f : Peer → Peer} (h : PeersBounded ps) (hf : ∀ p, (f p).node = p.node) : PeersBounded (ps.map f) := by
  have hnodes : (ps.map f).map Peer.node = ps.map Peer.node := by
    rw [List.map_map]
    exact List.map_congr_left fun p _ => hf p
  exact ⟨by simpa using h.1, by rw [hnodes]; exact h.2⟩

theorem modify {f : Peer → Peer} (h : PeersBounded ps) (hf : ∀ p, (f p).node = p.node) :
    PeersBounded (modifyPeer node f ps) :=
  h.map (modifyPeer_entry_node hf)

theorem touch (h : PeersBounded ps) : PeersBounded (touchPeer node ps) := touchPeer_bounds h.1 h.2

theorem remove (h : PeersBounded ps) : PeersBounded (removePeer node ps) := removePeer_bounds h.1 h.2

/-- An entry that is missing is created where room can be made, and the table stands where none can (R142). -/
theorem ensure {keep : Option Nat} (h : PeersBounded ps) : PeersBounded ((ensurePeer keep node ps).getD ps) := by
  cases hmade : ensurePeer keep node ps with
  | none => exact h
  | some qs => exact ensurePeer_bounds hmade h.1 h.2

/-- The entry that a receiver decision creates (R143). -/
theorem create {keep : Option Nat} {room : List Peer} (h : PeersBounded ps) (hf : findPeer ps node = none)
    (hr : makeRoom keep ps = some room) : PeersBounded (newPeer node :: room) :=
  ensurePeer_bounds (keep := keep) (node := node) (by simp [ensurePeer, hf, hr]) h.1 h.2

end PeersBounded

variable {s t : State}

/-- The law looks at the peer table alone. -/
theorem PeerLaw.of_pt (h : PeerLaw s) (hpt : t.pt = s.pt) : PeerLaw t := by rwa [PeerLaw, hpt]

theorem PeerLaw.answered (h : PeerLaw s) (c : Cst) (r : Quad) : PeerLaw (answer c r s) := h.of_pt rfl

/-- A change of the entries that keeps each one's node. -/
theorem PeerLaw.mapped {f : Peer → Peer} (h : PeerLaw s) (hpt : t.pt = s.pt.map f) (hf : ∀ p, (f p).node = p.node) :
    PeerLaw t := by
  rw [peerLaw_iff, hpt]
  exact PeersBounded.map h hf

/-- The peer's answer moves its entry to the front and changes it there (R151, R152). -/
theorem PeerLaw.touched {node : Nat} {f : Peer → Peer} (h : PeerLaw s)
    (hpt : t.pt = modifyPeer node f (touchPeer node s.pt)) (hf : ∀ p, (f p).node = p.node) : PeerLaw t := by
  rw [peerLaw_iff, hpt]
  exact (PeersBounded.touch h).modify hf

/-! ### A re-evaluation -/

theorem peerLaw_preparePeer (h : PeerLaw s) (o : Offer) : PeerLaw (preparePeer o s) := by
  rw [peerLaw_iff, preparePeer_pt]
  split
  · exact h
  · exact PeersBounded.ensure h

theorem peerLaw_withdrawOffer (h : PeerLaw s) : PeerLaw (withdrawOffer s) := by
  rw [peerLaw_iff, withdrawOffer_pt]
  split
  · exact h
  · exact PeersBounded.modify h fun _ => rfl

theorem peerLaw_installOffer (h : PeerLaw s) (o : Offer) : PeerLaw (installOffer o s) := by
  unfold installOffer
  cases o with
  | notice => exact h.of_pt rfl
  | slot n =>
    dsimp only
    split
    · exact h.of_pt rfl
    · split
      · exact h.of_pt rfl
      · exact h.touched rfl fun _ => rfl

theorem peerLaw_reevaluate (h : PeerLaw s) : PeerLaw (reevaluate s) := by
  unfold reevaluate
  split
  · exact h
  split
  · exact peerLaw_withdrawOffer h
  split
  · exact h
  · exact peerLaw_installOffer (peerLaw_withdrawOffer (peerLaw_preparePeer h _)) _

/-! ### The ends of an attempt -/

theorem peerLaw_clearActive (h : PeerLaw s) (sl : Slot) : PeerLaw (clearActive sl s) := by
  unfold clearActive
  split
  · exact h
  · exact PeersBounded.modify h fun _ => rfl

theorem peerLaw_completeSlot (h : PeerLaw s) (n : SlotId) (o : SlotOutcome) (sl : Slot) :
    PeerLaw (completeSlot n o sl s) := by
  rw [completeSlot_eq, peerLaw_iff]
  dsimp only
  split
  · exact h
  · exact PeersBounded.modify h fun _ => rfl

theorem peerLaw_requeueFront (h : PeerLaw s) (n : SlotId) (sl : Slot) : PeerLaw (requeueFront n sl s) :=
  peerLaw_clearActive (s := enqueueFront sl.cls n (setSlot n (some { sl with phase := .queued }) s)) h sl

theorem peerLaw_failOrRetry (h : PeerLaw s) (n : SlotId) (sl : Slot) : PeerLaw (failOrRetry n sl s) := by
  unfold failOrRetry
  split
  · exact peerLaw_completeSlot h _ _ _
  · exact peerLaw_requeueFront h _ _

theorem peerLaw_endUnanswered (h : PeerLaw s) (n : SlotId) : PeerLaw (endUnanswered n s) := by
  unfold endUnanswered
  split
  · exact h
  · dsimp only
    split
    · exact peerLaw_completeSlot h _ _ _
    · exact peerLaw_failOrRetry h _ _

theorem peerLaw_endEchoFault (h : PeerLaw s) (n : SlotId) : PeerLaw (endEchoFault n s) := by
  unfold endEchoFault
  split
  · exact h
  · exact peerLaw_failOrRetry h _ _

theorem peerLaw_endCut (h : PeerLaw s) (n : SlotId) : PeerLaw (endCut n s) := by
  unfold endCut
  split
  · exact h
  · exact peerLaw_requeueFront h _ _

theorem peerLaw_endAborted (h : PeerLaw s) (n : SlotId) : PeerLaw (endAborted n s) := by
  unfold endAborted
  split
  · exact h
  · exact peerLaw_completeSlot h _ _ _

/-! ### The window and the response -/

theorem peerLaw_takeNoResponse (h : PeerLaw s) (n : SlotId) : PeerLaw (takeNoResponse n s) :=
  peerLaw_reevaluate (peerLaw_endUnanswered h n)

theorem peerLaw_failCandidate (h : PeerLaw s) : PeerLaw (failCandidate s) := by
  unfold failCandidate
  split
  · exact h
  · exact peerLaw_takeNoResponse h _

theorem peerLaw_takeAck (h : PeerLaw s) (n : SlotId) : PeerLaw (takeAck n s) := by
  unfold takeAck
  split
  · exact h
  · refine peerLaw_reevaluate (peerLaw_completeSlot ?_ _ _ _)
    exact h.touched rfl fun _ => rfl

theorem peerLaw_takeBusy (h : PeerLaw s) (n : SlotId) (v : Byte) : PeerLaw (takeBusy n v s) := by
  unfold takeBusy
  split
  · exact h
  · next sl _ =>
    have hbusy : PeerLaw (busyPeer sl.dest s) := h.touched rfl fun _ => rfl
    refine peerLaw_reevaluate ?_
    split
    · exact peerLaw_completeSlot hbusy _ _ _
    split
    · exact peerLaw_completeSlot hbusy _ _ _
    · exact peerLaw_requeueFront hbusy _ _

theorem peerLaw_reportCandidate (h : PeerLaw s) (how : Ending) (r : Rx) : PeerLaw (reportCandidate how r s) := by
  unfold reportCandidate judgeCandidate
  split
  · split
    · exact h
    split
    · exact h
    split
    · split
      · exact peerLaw_takeAck h _
      · exact peerLaw_takeBusy h _ _
    · exact peerLaw_takeNoResponse h _
  · exact peerLaw_failCandidate h

theorem peerLaw_releasePeer (h : PeerLaw s) (node : Nat) : PeerLaw (releasePeer node s) :=
  peerLaw_reevaluate (h.mapped rfl (modifyPeer_entry_node fun _ => rfl))

/-! ### The end of a reception -/

theorem peerLaw_decideRow (h : PeerLaw s) (p : Peer) (r : Rx) : PeerLaw (decideRow p r s) := by
  unfold decideRow
  split
  · exact h.of_pt rfl
  split
  · exact h.of_pt (by simp)
  split
  · exact h.of_pt (by simp)
  split
  · exact h.of_pt rfl
  · exact h.mapped (f := fun q => if q.node = r.src
      then { q with rxKnown := true, rxSeq := r.seq, rxResync := r.resync } else q)
      (by simp [deliver, modifyPeer]) (modifyPeer_entry_node fun _ => rfl)

/-- The decision touches the source's entry, or creates one in the room that can be made (R143). -/
theorem peerLaw_decideData (h : PeerLaw s) (r : Rx) : PeerLaw (decideData r s) := by
  unfold decideData
  split
  · have htouched : PeerLaw { s with pt := touchPeer r.src s.pt } := PeersBounded.touch h
    exact peerLaw_decideRow htouched _ r
  · next hf =>
    split
    · exact h.of_pt rfl
    · next room hr =>
      have hcreated : PeerLaw { s with pt := newPeer r.src :: room } := PeersBounded.create h hf hr
      exact (peerLaw_decideRow hcreated _ r).of_pt rfl

theorem peerLaw_dealGood (h : PeerLaw s) (r : Rx) : PeerLaw (dealGood r s) := by
  unfold dealGood
  split
  · exact h
  · exact h
  · rcases takeReady_cases r s with e | e <;> rw [e]
    · exact h
    · exact peerLaw_releasePeer h _
  · split
    · exact h.of_pt rfl
    · dsimp only
      split
      · exact peerLaw_decideData (h.of_pt (by simp)) r
      · exact h.of_pt (by simp)
  · split
    · exact h.of_pt rfl
    · exact h.of_pt (by simp)

theorem peerLaw_endReception (h : PeerLaw s) (how : Ending) : PeerLaw (endReception how s) :=
  endReception_stages h (h.of_pt (by simp)) (fun r _ hu => peerLaw_reportCandidate hu how r)
    (fun r _ hu => peerLaw_dealGood hu r) (fun _ _ _ hu => hu.of_pt (by simp)) fun _ hu => peerLaw_reevaluate hu

/-! ### Marks of the quiet count, and rows of other stations -/

theorem peerLaw_closeAtDeadline (h : PeerLaw s) : PeerLaw (closeAtDeadline s) := by
  unfold closeAtDeadline
  split
  · exact h
  · exact peerLaw_takeNoResponse (h.of_pt (by rfl)) _

theorem peerLaw_takeMarks (h : PeerLaw s) : PeerLaw (takeMarks s) :=
  takeMarks_stages h (fun _ _ hu => hu.of_pt rfl) (fun _ hu _ => peerLaw_endReception hu _)
    (fun _ hu _ => peerLaw_closeAtDeadline hu) fun _ hu => hu.of_pt rfl

theorem peerLaw_takeStartBit (h : PeerLaw s) : PeerLaw (takeStartBit s) := by
  unfold takeStartBit
  split
  · split
    · unfold takeStray strayCandidate
      split
      · exact h.of_pt (by simp)
      · exact peerLaw_failCandidate (h.of_pt (by simp))
    · exact h.of_pt rfl
  all_goals exact h.of_pt rfl

theorem PeerLaw.of_heard (h : PeerLaw s) (ht : Heard s t) : PeerLaw t := by
  cases ht with
  | on hu => exact h.of_pt hu.1.peers
  | ended how hu => exact peerLaw_endReception (h.of_pt hu.1.peers) how

/-- A character reaches a receiver that runs, or ends at most a reception. -/
theorem peerLaw_takeCharacter {b : Byte} {stop : LineBit} {r : Rx} (h : PeerLaw s)
    (ht : takeCharacter b stop r s = some t) : PeerLaw t := by
  by_cases hoff : s.fr.mode = .off
  · unfold takeCharacter at ht
    split at ht
    · cases ht
      exact peerLaw_endReception (h.of_pt (by rfl)) _
    · simp only [takeComplete, hoff, Option.some.injEq] at ht
      exact h.of_pt (by rw [← ht])
  · exact h.of_heard (heard_takeCharacter hoff ht)

theorem peerLaw_characterReceived {v : Byte} {stop : LineBit} (h : PeerLaw s)
    (ht : exec (.characterReceived v stop) s = .next t) : PeerLaw t := by
  rcases exec_characterReceived_cases ht with rfl | ⟨_, u, hu, hc⟩
  · exact h
  · have hlaw : PeerLaw u := by
      rcases hu with hs | rfl
      · exact h.of_pt hs.peers
      · exact peerLaw_takeMarks h
    rcases hc with ⟨_, _, _, hx⟩ | ⟨_, rfl⟩
    · exact peerLaw_takeCharacter hlaw hx
    · exact hlaw.of_pt rfl

/-! ### The READY notice and congestion -/

theorem peerLaw_buildNotice (h : PeerLaw s) : PeerLaw (buildNotice s) := by
  unfold buildNotice
  split
  · exact h
  · exact peerLaw_reevaluate (h.of_pt rfl)

theorem peerLaw_testExit (h : PeerLaw s) : PeerLaw (testExit s) := by
  unfold testExit leaveCongestion
  split
  · dsimp only
    split
    · exact h.of_pt rfl
    · exact peerLaw_buildNotice (h.of_pt rfl)
  · exact h

theorem peerLaw_testMarks (h : PeerLaw s) : PeerLaw (testMarks s) := by
  unfold testMarks
  split
  · exact peerLaw_testExit h
  · exact h.of_pt (by simp)

end Sys2Proof.Machine
end

section
/-! SUPPORT. LAC's own rows and the commands keep the bounds of the peer table, and so does every step. -/

namespace Sys2Proof.Machine

open Sys2Proof

variable {s t : State}

/-! ### LAC's own rows -/

theorem peerLaw_loseLead (h : PeerLaw s) (b : Burst) (k : Nat) : PeerLaw (loseLead b k s) :=
  peerLaw_reevaluate (h.of_pt (by simp))

/-- TS on leaving ONLINE or LOOP (R90). -/
theorem peerLaw_stopScheduler (h : PeerLaw s) : PeerLaw (stopScheduler s) := by
  have hcut : PeerLaw (cutSlot (withdrawOffer s)) := by
    unfold cutSlot
    split
    · exact peerLaw_endCut (peerLaw_withdrawOffer h) _
    · exact peerLaw_withdrawOffer h
  have hclosed : PeerLaw (closeWindow (cutSlot (withdrawOffer s))) := by
    unfold closeWindow
    split
    · exact hcut
    · exact peerLaw_endUnanswered hcut _
  unfold stopScheduler returnNotice
  split <;> exact hclosed.of_pt rfl

theorem peerLaw_leaveLine (h : PeerLaw s) (target : Station) : PeerLaw (leaveLine target s) :=
  (peerLaw_stopScheduler (s := setStation target s) h).of_pt (by simp [leaveLine])

theorem peerLaw_reportCut (h : PeerLaw s) (src : BurstSource) : PeerLaw (reportCut src s) := by
  unfold reportCut
  split
  · exact h
  · exact h.of_pt rfl
  · exact peerLaw_endEchoFault h _

theorem peerLaw_applyFaultLimit (h : PeerLaw s) : PeerLaw (applyFaultLimit s) := by
  unfold applyFaultLimit
  split
  · exact (peerLaw_leaveLine h .silent).of_pt rfl
  · exact h

theorem peerLaw_takeEchoFault (h : PeerLaw s) (b : Burst) (k : Nat) : PeerLaw (takeEchoFault b k s) :=
  peerLaw_reevaluate (peerLaw_applyFaultLimit (peerLaw_reportCut (h.of_pt (by simp)) b.source))

/-- A slot's frame has been sent completely (R78): DONE SENT, or AWAITING. -/
theorem peerLaw_reportSent (h : PeerLaw s) (src : BurstSource) : PeerLaw (reportSent src s) := by
  unfold reportSent slotSent
  split
  · exact h
  · exact h.of_pt (by simp)
  · split
    · exact h
    · dsimp only
      split
      · exact peerLaw_completeSlot (h.of_pt (by simp)) _ _ _
      · exact h.of_pt rfl

/-! ### Commands -/

theorem peerLaw_cutByAbort (h : PeerLaw s) : PeerLaw (cutByAbort s) := by
  unfold cutByAbort
  dsimp only
  split
  · exact h
  split
  · exact (peerLaw_endReception (s := stopBurst .quiet { s with lac := { s.lac with path := [] } }) h
      .truncated).of_pt rfl
  · exact h.of_pt (by simp)

theorem peerLaw_abortSlot (h : PeerLaw s) (n : SlotId) (sl : Slot) : PeerLaw (abortSlot n sl s) := by
  unfold abortSlot
  split
  · exact (peerLaw_reevaluate (h.of_pt (by simp))).answered _ _
  · exact (peerLaw_reevaluate (peerLaw_completeSlot (h.of_pt (by simp)) _ _ _)).answered _ _
  · exact (peerLaw_reevaluate (peerLaw_completeSlot (h.of_pt (by simp)) _ _ _)).answered _ _
  · exact (peerLaw_reevaluate (peerLaw_endAborted (peerLaw_cutByAbort h) n)).answered _ _
  · exact h.of_pt rfl
  · exact h.answered _ _

/-- FORGET only takes an entry out (R146). -/
theorem peerLaw_forgetBody (h : PeerLaw s) : PeerLaw (forgetBody s) := by
  unfold forgetBody
  dsimp only
  split
  · exact h.answered _ _
  split
  · exact h.answered _ _
  split
  · exact h.answered _ _
  · have hremoved : PeerLaw { s with pt := removePeer s.hp.args.b0.toNat s.pt } := PeersBounded.remove h
    refine PeerLaw.answered ?_ _ _
    split
    · exact peerLaw_reevaluate (hremoved.of_pt rfl)
    · exact hremoved

theorem peerLaw_goOnlineBody (h : PeerLaw s) : PeerLaw (goOnlineBody s) := by
  unfold goOnlineBody
  split
  · exact h.answered _ _
  · refine (peerLaw_reevaluate ?_).answered _ _
    unfold goOnlineChange
    split
    case h_5 => exact peerLaw_leaveLine (h.of_pt (by simp)) _
    all_goals exact h.of_pt rfl

theorem peerLaw_goListenBody (h : PeerLaw s) : PeerLaw (goListenBody s) := by
  unfold goListenBody
  refine PeerLaw.answered ?_ _ _
  split
  case h_4 | h_5 => exact peerLaw_leaveLine h _
  all_goals exact h.of_pt rfl

theorem peerLaw_goOfflineBody (h : PeerLaw s) : PeerLaw (goOfflineBody s) := by
  unfold goOfflineBody
  refine PeerLaw.answered ?_ _ _
  split
  case h_4 | h_5 => exact (peerLaw_leaveLine h _).of_pt rfl
  all_goals exact h.of_pt (by simp)

theorem peerLaw_of_empty (h : s.pt = []) : PeerLaw s := by simp [PeerLaw, h]

theorem peerLaw_commandBody (h : PeerLaw s) (c : HostCommand) : PeerLaw (commandBody c s) := by
  cases c with
  | submit =>
    simp only [commandBody, submitBody]
    split
    · exact h.answered _ _
    split
    · exact h.answered _ _
    split
    · exact h.answered _ _
    · exact (peerLaw_reevaluate (h.of_pt (by simp))).answered _ _
  | abort =>
    simp only [commandBody, abortBody]
    split
    · exact h.answered _ _
    split
    · exact h.answered _ _
    · exact peerLaw_abortSlot h _ _
  | release =>
    simp only [commandBody, releaseBody]
    split
    · exact h.answered _ _
    · exact (peerLaw_testExit (h.of_pt (by simp))).answered _ _
  | flush =>
    simp only [commandBody, flushBody]
    refine (peerLaw_testExit (h.of_pt ?_)).answered _ _
    split <;> simp
  | resume =>
    simp only [commandBody, resumeBody]
    refine PeerLaw.answered ?_ _ _
    split
    · exact peerLaw_buildNotice (h.of_pt rfl)
    · exact h.of_pt rfl
  | forget => exact peerLaw_forgetBody h
  | goOnline => exact peerLaw_goOnlineBody h
  | goListen => exact peerLaw_goListenBody h
  | goLoop =>
    simp only [commandBody, goLoopBody]
    split
    · exact (peerLaw_reevaluate (h.of_pt (by simp))).answered _ _
    · exact h.answered _ _
  | goOffline => exact peerLaw_goOfflineBody h
  | clear => exact peerLaw_of_empty rfl
  | allocate | collect | pause | queryPeer | join | leave | setAddress | clearCounters =>
    exact h.of_pt (by simp [commandBody])

/-! ### Every step -/

theorem peerLaw_hostSide (h : PeerLaw s) (ht : HostSide s t) : PeerLaw t := by
  cases ht with
  | same hu => exact h.of_pt hu.peers
  | command c hu => exact peerLaw_commandBody (h.of_pt hu.peers) c
  | marks hu => exact peerLaw_testMarks (h.of_pt hu.peers)

theorem peerLaw_lineEvent {holds : Bool} {f : State → State} (h : PeerLaw s) (ht : lineEvent holds f s = .next t)
    (hf : PeerLaw (f s)) : PeerLaw t := by
  rcases lineEvent_cases ht with rfl | ⟨_, _, rfl⟩
  · exact h
  · exact hf

theorem peerLaw_exec {i : Instr} (h : PeerLaw s) (ht : exec i s = .next t) : PeerLaw t := by
  by_cases hi : movesLine i = true
  case neg => exact peerLaw_hostSide h (exec_hostSide (by simpa using hi) ht)
  cases i with
  | resetAsserted | resetReleased | powerUp => cases ht; exact peerLaw_of_empty rfl
  | startBit =>
    rw [exec, execStartBit] at ht
    exact peerLaw_lineEvent h ht (peerLaw_takeStartBit (peerLaw_takeMarks h))
  | characterReceived v stop => exact peerLaw_characterReceived h ht
  | gapGuardClear | gapLimitRecover => exact peerLaw_lineEvent h ht (h.of_pt rfl)
  | gapLimitTruncation =>
    rw [exec, execGapLimitTruncation] at ht
    exact peerLaw_lineEvent h ht (peerLaw_endReception (h.of_pt (by simp)) _)
  | demotionClear c =>
    rw [exec, execDemotionClear] at ht
    exact peerLaw_lineEvent h ht (h.of_pt (by simp))
  | leadStart =>
    rcases exec_leadStart_cases ht with rfl | ⟨o, chars, _, _, _, rfl⟩
    · exact h
    · exact h.of_pt (by simp)
  | contentionLost k =>
    rcases exec_contentionLost_cases ht with rfl | ⟨b, _, _, _, rfl⟩
    · exact h
    · exact peerLaw_loseLead h b k
  | leadWon =>
    rcases exec_leadWon_cases ht with rfl | ⟨b, _, _, rfl⟩
    · exact h
    · exact h.of_pt rfl
  | echoFault k =>
    rcases exec_echoFault_cases ht with rfl | ⟨b, _, _, _, rfl⟩
    · exact h
    · exact peerLaw_takeEchoFault h b k
  | frameSent =>
    rcases exec_frameSent_cases ht with rfl | ⟨b, _, _, rfl⟩
    · exact h
    · exact peerLaw_reevaluate (peerLaw_reportSent (h.of_pt (by simp)) b.source)
  | responseStart =>
    rcases exec_responseStart_cases ht with rfl | ⟨chars, u, _, _, rfl, rfl⟩
    · exact h
    · exact (peerLaw_takeMarks (s := reachQuiet Config.responseGap s) h).of_pt (by simp [startBurst])
  | responseSent =>
    rcases exec_responseSent_cases ht with rfl | ⟨b, _, _, rfl⟩
    · exact h
    · exact peerLaw_reevaluate (h.of_pt (by simp))
  | noResponse =>
    rcases exec_noResponse_cases ht with rfl | ⟨_, rfl⟩
    · exact h
    · exact peerLaw_closeAtDeadline (h.of_pt rfl)
  | holdoffExpiry node => exact peerLaw_lineEvent h ht (peerLaw_releasePeer h node)
  | dominantBitInRecover =>
    rw [exec, execDominantBitInRecover] at ht
    exact peerLaw_lineEvent h ht ((peerLaw_takeMarks h).of_pt (by simp))
  | _ => simp [movesLine] at hi

/-- A bit-time counts the holdoffs down (R153). -/
theorem peerLaw_bitTime (h : PeerLaw s) : PeerLaw (bitTime s) := by
  have hticked : PeerLaw (tickTimers s) := h.mapped (f := Peer.tick) rfl fun _ => rfl
  unfold bitTime tickLine
  split
  · exact h
  · dsimp only
    split
    · exact hticked.of_pt rfl
    · split <;> exact hticked.of_pt rfl

theorem peerLaw_step (h : PeerLaw s) (ht : step s = .next t) : PeerLaw t := by
  unfold step at ht
  split at ht
  · cases ht
    unfold idle
    split
    · exact peerLaw_bitTime h
    · exact h.of_pt rfl
  · next c rest _ => exact peerLaw_exec (s := { s with pending := rest }) h ht

/-- Settles O10: an entry is created only in room that is made for it and only for a node that has none; whatever else
changes the table changes, moves or removes an entry. -/
theorem peerTableLawIsKept : Obligations.PeerTableLawIsKept := fun _ _ => peerLaw_step

end Sys2Proof.Machine
end

section
/-! SUPPORT. The peer table makes room (R139, R141 to R143): the eviction, the eligibility test, and the table with an
entry for a node. -/

namespace Sys2Proof.Machine

open Sys2Proof

variable {keep : Option Nat} {node : Nat} {p : Peer} {ps : List Peer}

/-! ### The entry of a node -/

/-- Among distinct nodes an entry is the one that is found for its node. -/
theorem findPeer_of_mem (hn : (ps.map Peer.node).Nodup) (hp : p ∈ ps) : findPeer ps p.node = some p := by
  cases hf : findPeer ps p.node with
  | none => exact absurd rfl (findPeer_eq_none.mp hf p hp)
  | some q =>
    obtain ⟨hq, hnode⟩ := findPeer_eq_some hf
    rw [List.inj_on_of_nodup_map hn hq hp hnode]

theorem findPeer_iff_mem (hn : (ps.map Peer.node).Nodup) :
    findPeer ps node = some p ↔ p ∈ ps ∧ p.node = node :=
  ⟨findPeer_eq_some, fun ⟨hp, hnode⟩ => hnode ▸ findPeer_of_mem hn hp⟩

/-! ### The eviction -/

/-- What makes an entry evictable (R139, R144). -/
theorem evictable_iff : p.evictable keep = true ↔ p.active = false ∧ p.holdoff = none ∧ keep ≠ some p.node := by
  simp [Peer.evictable, Peer.remoteBusy, and_assoc]

theorem evictable_eq_false_iff :
    p.evictable keep = false ↔ p.active = true ∨ p.holdoff.isSome = true ∨ keep = some p.node := by
  simp [Peer.evictable, Peer.remoteBusy, or_iff_not_imp_left]

/-- The entry that goes is evictable, and none behind it is (R141). -/
theorem evictOne_eq_some {rest : List Peer} (h : evictOne keep ps = some rest) :
    ∃ ahead p behind, ps = ahead ++ p :: behind ∧ rest = ahead ++ behind ∧ p.evictable keep = true ∧
      ∀ q ∈ behind, q.evictable keep = false := by
  induction ps generalizing rest with
  | nil => simp [evictOne] at h
  | cons x ps ih =>
    cases hbehind : evictOne keep ps with
    | some rest' =>
      obtain ⟨ahead, p, behind, rfl, rfl, hp, hlast⟩ := ih hbehind
      obtain rfl : x :: (ahead ++ behind) = rest := by simpa [evictOne, hbehind] using h
      exact ⟨x :: ahead, p, behind, rfl, rfl, hp, hlast⟩
    | none =>
      obtain ⟨hx, rfl⟩ : x.evictable keep = true ∧ ps = rest := by simpa [evictOne, hbehind] using h
      exact ⟨[], x, ps, rfl, rfl, hx, evictOne_eq_none.mp hbehind⟩

/-! ### The table with an entry for a node -/

theorem ensurePeer_of_present (hp : p ∈ ps) (hnode : p.node = node) : ensurePeer keep node ps = some ps := by
  cases hf : findPeer ps node with
  | none => exact absurd hnode (findPeer_eq_none.mp hf p hp)
  | some q => simp [ensurePeer, hf]

theorem ensurePeer_of_absent (h : ∀ p ∈ ps, p.node ≠ node) :
    ensurePeer keep node ps = (makeRoom keep ps).map fun room => newPeer node :: room := by
  simp [ensurePeer, findPeer_eq_none.mpr h]

theorem makeRoom_of_free (h : ps.length < 16) : makeRoom keep ps = some ps := if_pos h

theorem makeRoom_of_full (h : 16 ≤ ps.length) : makeRoom keep ps = evictOne keep ps := if_neg (Nat.not_lt.mpr h)

/-- Settles O30: the eviction from the back of the list, the test by the entry that is found, and the new entry in the
room that is made. -/
theorem peerTableMakesRoom : Obligations.PeerTableMakesRoom := by
  refine fun keep => ⟨fun ps => ?_, fun ps node hn => ?_, fun ps node => ⟨fun p => ensurePeer_of_present, ?_⟩⟩
  · cases h : evictOne keep ps with
    | none => exact fun p hp => evictable_eq_false_iff.mp (evictOne_eq_none.mp h p hp)
    | some rest =>
      obtain ⟨ahead, p, behind, hps, hrest, hp, hlast⟩ := evictOne_eq_some h
      obtain ⟨hactive, hbusy, hkeep⟩ := evictable_iff.mp hp
      exact ⟨ahead, p, behind, hps, hrest, hactive, hbusy, hkeep,
        fun q hq => evictable_eq_false_iff.mp (hlast q hq)⟩
  · simp only [peerAdmits_iff, findPeer_iff_mem hn, and_assoc]
  · rintro _ habsent rfl
    rw [ensurePeer_of_absent habsent]
    refine ⟨fun hfree => ?_, fun hfull => ?_⟩
    · rw [makeRoom_of_free hfree]
      rfl
    · rw [makeRoom_of_full hfull]
      rfl

end Sys2Proof.Machine
end

section
/-! SUPPORT. The timers that count spans (R153, R122), and the commands of the peer table: FORGET (R146) and
QUERY_PEER (R147, 11.6). -/

namespace Sys2Proof.Machine

open Sys2Proof

variable {s u : State} {p : Peer}

/-! ### The timers -/

theorem remoteBusy_iff : p.remoteBusy = true ↔ p.holdoff ≠ none := Option.isSome_iff_ne_none

/-- A holdoff runs out only where the entry found for the node is remote busy (R155). -/
theorem exec_holdoffExpiry (hhigh : s.resetLow = false) {node : Nat} (hf : findPeer s.pt node = some p)
    (hbusy : p.holdoff ≠ none) : exec (.holdoffExpiry node) s = .next (releasePeer node s) := by
  rw [exec, execHoldoffExpiry]
  refine lineEvent_of _ hhigh ?_
  rw [hf]
  exact remoteBusy_iff.mpr hbusy

/-- Settles O59: the entry that runs out is the one found for its node, and the stale timer runs. -/
theorem timersExpire : Obligations.TimersExpire := by
  refine fun s hhigh => ⟨fun p hp hbusy hn => ?_, fun hruns => ?_⟩
  · exact ⟨_, exec_holdoffExpiry hhigh (findPeer_of_mem hn hp) hbusy, releasePeer_reevaluated p.node s⟩
  · rw [exec, execStaleTimerExpiry]
    exact lineEvent_of _ hhigh (Option.isSome_iff_ne_none.mpr hruns)

/-! ### FORGET -/

theorem exec_forget (h : s.resetLow = false) : exec .forget s = .next (forgetBody (recordCode 0x30 s)) := by
  rw [exec, execForget, hostAccess_of_high _ h]

theorem exec_queryPeer (h : s.resetLow = false) : exec .queryPeer s = .next (queryPeerBody (recordCode 0x31 s)) := by
  rw [exec, execQueryPeer, hostAccess_of_high _ h]

/-- Both commands refuse an address that no node has, then one that has no entry (R146, R147). -/
theorem peerCommands_of_badArgument (h : 47 < u.hp.args.b0.toNat) :
    forgetBody u = answerBare .badArgument u ∧ queryPeerBody u = answerBare .badArgument u :=
  ⟨if_pos h, if_pos h⟩

theorem peerCommands_of_notFound (hnode : u.hp.args.b0.toNat ≤ 47) (h : findPeer u.pt u.hp.args.b0.toNat = none) :
    forgetBody u = answerBare .notFound u ∧ queryPeerBody u = answerBare .notFound u := by
  have hfits : ¬ u.hp.args.b0.toNat > Config.maxNode := Nat.not_lt.mpr hnode
  simp [forgetBody, queryPeerBody, hfits, h]

/-- FORGET of an entry, by its flags (R146). -/
theorem forgetBody_of_found (hnode : u.hp.args.b0.toNat ≤ 47) (h : findPeer u.pt u.hp.args.b0.toNat = some p) :
    forgetBody u =
      if p.active then answerBare .badState u
      else answerBare .ok
        (if p.remoteBusy then
          reevaluate { u with
            pt := removePeer u.hp.args.b0.toNat u.pt, iu := { u.iu with flowReleased := true } }
        else { u with pt := removePeer u.hp.args.b0.toNat u.pt }) := by
  have hfits : ¬ u.hp.args.b0.toNat > Config.maxNode := Nat.not_lt.mpr hnode
  simp only [forgetBody, hfits, if_false, h]

/-! ### QUERY_PEER -/

theorem queryPeerBody_of_found (hnode : u.hp.args.b0.toNat ≤ 47) (h : findPeer u.pt u.hp.args.b0.toNat = some p) :
    queryPeerBody u =
      answer .ok (peerRecord (u.pt.findIdx fun q => q.node == u.hp.args.b0.toNat) p) u := by
  have hfits : ¬ u.hp.args.b0.toNat > Config.maxNode := Nat.not_lt.mpr hnode
  simp only [queryPeerBody, hfits, if_false, h]

/-- The entry that is found stands at the place that is shown (R140, R147). -/
theorem findPeer_findIdx_append {node : Nat} (ahead behind : List Peer) (hp : p.node = node)
    (hahead : ∀ q ∈ ahead, q.node ≠ node) :
    findPeer (ahead ++ p :: behind) node = some p ∧
      (ahead ++ p :: behind).findIdx (fun q => q.node == node) = ahead.length := by
  induction ahead with
  | nil => simp [findPeer, List.findIdx_cons, hp]
  | cons q ahead ih =>
    obtain ⟨hq, hrest⟩ := List.forall_mem_cons.mp hahead
    obtain ⟨hfind, hplace⟩ := ih hrest
    have hother : (q.node == node) = false := by simpa using hq
    refine ⟨?_, ?_⟩
    · simpa [findPeer, hother] using hfind
    · simpa [List.findIdx_cons, hother] using hplace

/-- Eight flags packed into a byte are eight bits sent most significant first. -/
theorem packFlags_eq_byteOfBits (f0 f1 f2 f3 f4 f5 f6 f7 : Bool) :
    packFlags f0 f1 f2 f3 f4 f5 f6 f7 = byteOfBits ([f7, f6, f5, f4, f3, f2, f1, f0].map lineBit) := by
  have hflag (b : Bool) : flagBit (dataBit (lineBit b)) = flagBit b := by cases b <;> rfl
  refine congrArg byteOf ?_
  simp only [List.map, List.foldl, hflag]
  omega

/-- Eight flags packed into a byte are its bits, the first at bit 0. -/
theorem packFlags_bits (f0 f1 f2 f3 f4 f5 f6 f7 : Bool) :
    (List.range 8).map (fun i => (packFlags f0 f1 f2 f3 f4 f5 f6 f7).getLsbD i) = [f0, f1, f2, f3, f4, f5, f6, f7] := by
  have hline (b : Bool) : dataBit (lineBit b) = b := by cases b <;> rfl
  have hbit (i : Fin 8) : (packFlags f0 f1 f2 f3 f4 f5 f6 f7).getLsbD (7 - i.val) =
      dataBit (([f7, f6, f5, f4, f3, f2, f1, f0].map lineBit).getD i.val .dominant) := by
    rw [packFlags_eq_byteOfBits]
    exact byteOfBits_getLsbD rfl i
  simp only [List.range, List.range.loop, List.map, List.cons.injEq, and_true]
  exact ⟨(hbit 7).trans (hline f0), (hbit 6).trans (hline f1), (hbit 5).trans (hline f2), (hbit 4).trans (hline f3),
    (hbit 3).trans (hline f4), (hbit 2).trans (hline f5), (hbit 1).trans (hline f6), (hbit 0).trans (hline f7)⟩

/-- Settles O28: the two commands by their tests, FORGET by the entry's flags and QUERY_PEER by its record. -/
theorem forgetAndQueryPeer : Obligations.ForgetAndQueryPeer := by
  refine ⟨fun s hhigh => ?_, fun s hhigh => ?_⟩
  · rw [exec_forget hhigh]
    refine ⟨fun hbad => ?_, fun hnode habsent => ?_, fun p hnode hfound => ?_⟩
    · rw [(peerCommands_of_badArgument (u := recordCode 0x30 s) hbad).1]
      rfl
    · rw [(peerCommands_of_notFound (u := recordCode 0x30 s) hnode (findPeer_eq_none.mpr habsent)).1]
      rfl
    · rw [forgetBody_of_found (u := recordCode 0x30 s) hnode hfound]
      refine ⟨fun hactive => ?_, fun hidle hfree => ?_, fun hidle hbusy => ⟨_, rfl, ?_⟩⟩
      · rw [if_pos hactive]
        rfl
      · simp only [hidle, Peer.remoteBusy, hfree]
        rfl
      · rw [if_neg (by simp [hidle]), if_pos (remoteBusy_iff.mpr hbusy)]
        exact (reevaluate_spec _).answer .ok .zero
  · rw [exec_queryPeer hhigh]
    refine ⟨fun hbad => ?_, fun hnode habsent => ?_, fun ahead p behind hpt hp hnode hahead => ?_⟩
    · rw [(peerCommands_of_badArgument (u := recordCode 0x31 s) hbad).2]
      rfl
    · rw [(peerCommands_of_notFound (u := recordCode 0x31 s) hnode (findPeer_eq_none.mpr habsent)).2]
      rfl
    · obtain ⟨hfind, hplace⟩ := findPeer_findIdx_append ahead behind rfl hahead
      rw [← hpt, hp] at hfind hplace
      rw [queryPeerBody_of_found (u := recordCode 0x31 s) (hp ▸ hnode) hfind]
      exact ⟨_, rfl, rfl, packFlags_bits _ _ _ _ _ _ _ _, rfl, congrArg byteOf hplace, rfl⟩

end Sys2Proof.Machine
end

section
/-! SUPPORT. The receiver decision (R156 to R159, R143, R144): each row of the decision table, the entry that a decision
creates, and the DATA frame end that brings a decision. -/

namespace Sys2Proof.Machine

open Sys2Proof

variable {s t : State} {r : Rx} {p : Peer}

/-! ### The entry of the source -/

/-- The entry found for a node moves to the front (R140). -/
theorem touchPeer_of_found {node : Nat} {ps : List Peer} (h : findPeer ps node = some p) :
    touchPeer node ps = p :: ps.filter fun q => q.node ≠ node := by
  simp only [touchPeer, h, removePeer]

/-- A change of the entry that has moved to the front. -/
theorem modifyPeer_touchPeer {node : Nat} {ps : List Peer} (f : Peer → Peer) (h : findPeer ps node = some p) :
    modifyPeer node f (touchPeer node ps) = f p :: ps.filter fun q => q.node ≠ node := by
  have hbehind (q : Peer) (hq : q ∈ ps.filter fun q => q.node ≠ node) : (if q.node = node then f q else q) = q :=
    if_neg (by simpa using (List.mem_filter.mp hq).2)
  rw [touchPeer_of_found h, modifyPeer, List.map_cons, if_pos (findPeer_eq_some h).2, List.map_congr_left hbehind,
    List.map_id']

/-- An entry created at the front is the one found for its node, and stands at the front (R142, R143). -/
theorem touchPeer_newPeer {node : Nat} {room : List Peer} (h : ∀ p ∈ room, p.node ≠ node) :
    findPeer (newPeer node :: room) node = some (newPeer node) ∧
      touchPeer node (newPeer node :: room) = newPeer node :: room := by
  have hfound : findPeer (newPeer node :: room) node = some (newPeer node) := by simp [findPeer, newPeer]
  refine ⟨hfound, ?_⟩
  rw [touchPeer_of_found hfound, List.filter_cons_of_neg (by simp [newPeer]),
    List.filter_eq_self.mpr fun p hp => by simpa using h p hp]

/-! ### The rows of the decision table -/

/-- The duplicate test (R158). -/
theorem isDuplicate_iff :
    isDuplicate p r = true ↔ p.rxKnown = true ∧ p.rxSeq = r.seq ∧ (r.resync = true → p.rxResync = true) := by
  cases hr : r.resync <;> simp [isDuplicate, hr, and_assoc]

/-- A refused source joins the list once while there is room, and else sets overflow (R127). -/
theorem refuseSource_eq (src : Nat) (s : State) :
    refuseSource src s = { s with rq := { s.rq with
      refused := if src ∉ s.rq.refused ∧ s.rq.refused.length < 16 then s.rq.refused ++ [src] else s.rq.refused
      overflow := s.rq.overflow || decide (src ∉ s.rq.refused ∧ 16 ≤ s.rq.refused.length) } } := by
  unfold refuseSource
  by_cases hmem : src ∈ s.rq.refused
  · simp [hmem]
  · by_cases hroom : s.rq.refused.length < 16
    · simp [hmem, hroom, Config.listCapacity]
    · simp [hmem, hroom, Nat.not_lt.mp hroom, Config.listCapacity]

theorem decideRow_of_duplicate (h : isDuplicate p r = true) (s : State) :
    decideRow p r s = orderResponse .ack 0 r (releaseChain r.chain (countEvent .duplicate s)) := if_pos h

theorem decideRow_of_refusing (h : ¬ isDuplicate p r = true) (hflow : s.rq.paused = true ∨ s.rq.congested = true) :
    decideRow p r s = orderResponse .busy (if s.rq.paused then reasonPaused else reasonQueue) r
      (releaseChain r.chain (refuseSource r.src s)) := by
  rw [decideRow, if_neg h]
  by_cases hp : s.rq.paused = true
  · rw [if_pos hp, if_pos hp]
  · rw [if_neg hp, if_neg hp, if_pos (hflow.resolve_left hp)]

/-- Below the rows of flow the claim decides (R157, rows 5 and 6). -/
theorem decideRow_of_flowing (h : ¬ isDuplicate p r = true) (hp : s.rq.paused = false) (hc : s.rq.congested = false) :
    decideRow p r s =
      if r.claim ≠ .succeeded then orderResponse .busy reasonMemory r (releaseChain r.chain (reportLoss s))
      else deliver p r s := by
  rw [decideRow, if_neg h, if_neg (by simp [hp]), if_neg (by simp [hc])]

/-- Every row orders a response to the source (R36). -/
theorem decideRow_order (p : Peer) (r : Rx) (s : State) :
    ∃ o, (decideRow p r s).lac.order = some o ∧ o.dest = r.src := by
  unfold decideRow
  (repeat' split) <;> exact ⟨_, rfl, rfl⟩

/-- The source's entry once a frame of it is delivered (R159). -/
def Peer.afterDelivery (r : Rx) (q : Peer) : Peer := { q with rxKnown := true, rxSeq := r.seq, rxResync := r.resync }

/-- Only a delivery changes the table, and only what the source's entry holds of reception. -/
theorem decideRow_pt (p : Peer) (r : Rx) (s : State) :
    (decideRow p r s).pt = s.pt ∨ (decideRow p r s).pt = modifyPeer r.src (Peer.afterDelivery r) s.pt := by
  unfold decideRow
  split
  · exact .inl rfl
  split
  · exact .inl (by simp)
  split
  · exact .inl (by simp)
  split
  · exact .inl rfl
  · exact .inr (by simp [deliver]; rfl)

/-- No row takes an entry in or out, and none makes an entry evictable. -/
theorem decideRow_full {keep : Option Nat} (p : Peer) (r : Rx) (s : State) :
    (decideRow p r s).pt.length = s.pt.length ∧
      ((∀ q ∈ s.pt, q.evictable keep = false) → ∀ q ∈ (decideRow p r s).pt, q.evictable keep = false) := by
  rcases decideRow_pt p r s with hpt | hpt <;> rw [hpt]
  · exact ⟨rfl, id⟩
  · refine ⟨modifyPeer_length _ _ _, fun hkept q hq => ?_⟩
    obtain ⟨x, hx, rfl⟩ := List.mem_map.mp hq
    split <;> exact hkept x hx

/-- A delivery under a claim that holds just the blocks of the frame (R159, R56). -/
theorem deliver_of_exact (hkind : r.kind = .data) (hchain : r.chain.length = blocksFor r.length) (p : Peer)
    (s : State) :
    deliver p r s = orderResponse .ack 0 r (appendEntry
      { src := r.src, dest := r.dest, sort := .own, cls := r.cls, kind := .data, length := r.length, declared := none,
        tags := { Tags.none with adopted := !p.rxKnown && !r.resync }, chain := r.chain }
      (withPeer r.src (Peer.afterDelivery r) s)) := by
  unfold deliver
  dsimp only
  rw [keepEntry_of_exact (by exact hchain), entryOf, if_pos hkind]
  rfl

/-! ### The entry that a decision creates -/

theorem decideData_of_found (h : findPeer s.pt r.src = some p) :
    decideData r s = decideRow p r { s with pt := touchPeer r.src s.pt } := by
  simp only [decideData, h]

theorem decideData_of_room {room : List Peer} (habsent : ∀ p ∈ s.pt, p.node ≠ r.src)
    (hroom : makeRoom none s.pt = some room) :
    decideData r s =
      stampCreated (lastPlace s.pt) (decideRow (newPeer r.src) r { s with pt := newPeer r.src :: room }) := by
  simp only [decideData, findPeer_eq_none.mpr habsent, hroom]

theorem decideData_of_full (habsent : ∀ p ∈ s.pt, p.node ≠ r.src) (hroom : makeRoom none s.pt = none) :
    decideData r s = orderResponse .busy reasonNoPeer r (releaseChain r.chain s) := by
  simp only [decideData, findPeer_eq_none.mpr habsent, hroom]

/-- With the new entry in place the decision is the one on a source that has an entry (R143). -/
theorem decideData_created {room : List Peer} (habsent : ∀ p ∈ room, p.node ≠ r.src) (s : State) :
    decideData r { s with pt := newPeer r.src :: room } =
      decideRow (newPeer r.src) r { s with pt := newPeer r.src :: room } := by
  obtain ⟨hfound, htouched⟩ := touchPeer_newPeer habsent
  rw [decideData_of_found (s := { s with pt := newPeer r.src :: room }) hfound]
  exact congrArg (fun ps => decideRow (newPeer r.src) r { s with pt := ps }) htouched

/-- The entry that takes the last place leaves none for a DATA slot that is presented at this moment (R144; log 29). -/
theorem not_eligible_at_last_place (habsent : ∀ p ∈ s.pt, p.node ≠ r.src) (hlength : s.pt.length = 15)
    (hkept : ∀ p ∈ s.pt, p.active = true ∨ p.holdoff.isSome = true) {n : SlotId} {sl : Slot}
    (hs : slotAt (decideData r s) n = some sl) (hdata : sl.kind = .data)
    (hnone : ∀ p ∈ (decideData r s).pt, p.node ≠ sl.dest) : eligible (decideData r s) n = false := by
  rw [decideData_of_room habsent (makeRoom_of_free (by omega)), lastPlace_iff.mpr ⟨hlength, hkept⟩] at hs hnone ⊢
  generalize hw : decideRow (newPeer r.src) r { s with pt := newPeer r.src :: s.pt } = w at hs hnone ⊢
  obtain ⟨o, ho, hdest⟩ : ∃ o, w.lac.order = some o ∧ o.dest = r.src := hw ▸ decideRow_order _ _ _
  have hfresh : freshPeer (stampCreated true w) = some r.src :=
    freshPeer_eq_some.mpr ⟨{ o with createdAt := some w.lac.quiet }, by simp [ho], hdest, by simp⟩
  have hfull : makeRoom (some r.src) w.pt = none := by
    obtain ⟨hcount, hstay⟩ := decideRow_full (keep := some r.src) (newPeer r.src) r
      { s with pt := newPeer r.src :: s.pt }
    rw [hw] at hcount hstay
    rw [makeRoom_of_full (by rw [hcount, List.length_cons, hlength]), evictOne_eq_none]
    refine hstay (List.forall_mem_cons.mpr ⟨by simp [Peer.evictable, newPeer], fun q hq => ?_⟩)
    exact evictable_eq_false_iff.mpr ((hkept q hq).imp_right .inl)
  refine Bool.eq_false_of_not_eq_true fun helig => ?_
  obtain ⟨sl', hs', _, _, hadmits⟩ := eligible_iff.mp helig
  obtain rfl := Option.some.inj (hs.symm.trans hs')
  have hadmitted := hadmits hdata
  rw [hfresh, peerAdmits, findPeer_eq_none.mpr hnone, stampCreated_pt, hfull] at hadmitted
  cases hadmitted

/-! ### The frame end -/

/-- A good accepted DATA frame counts and is decided on where the station answers (R108, R156). -/
theorem dealGood_of_decided {sort : DestSort} (hk : r.kind = .data) (hacc : r.accepted = some sort)
    (hst : s.sc.station = .online ∨ s.sc.station = .loop) :
    dealGood r.counted s = decideData r { s with ctr := { s.ctr with received := bump s.ctr.received } } := by
  have hsends : (countEvent .received s).sc.station.sends = true := sends_iff.mpr hst
  have hkind : r.counted.kind = .data := hk
  have haccepted : r.counted.accepted = some sort := hacc
  simp only [dealGood, hkind, haccepted, hsends, if_true]
  rfl

/-- Settles O50: the rows of the table from the state with the source's entry at the front, with the entry created, and
with none to be created. -/
theorem receiverDecision : Obligations.ReceiverDecision := by
  refine ⟨?_, ?_, ?_, ?_, ?_⟩
  · rintro s _ r p hf hkind rfl
    rw [decideData_of_found hf, ← isDuplicate_iff]
    refine ⟨fun hd => ?_, fun hd => ⟨fun hflow => ?_, fun hp hc => ?_⟩⟩
    · rw [decideRow_of_duplicate hd, touchPeer_of_found hf]
      rfl
    · rw [decideRow_of_refusing (s := { s with pt := touchPeer r.src s.pt }) hd hflow, refuseSource_eq,
        touchPeer_of_found hf]
      rfl
    · rw [decideRow_of_flowing (s := { s with pt := touchPeer r.src s.pt }) hd hp hc]
      refine ⟨fun hclaim => ?_, fun hclaim hchain => ⟨_, rfl, ?_⟩⟩
      · rw [if_pos hclaim, touchPeer_of_found hf]
        rfl
      · rw [if_neg (not_not.mpr hclaim), deliver_of_exact hkind hchain, withPeer, modifyPeer_touchPeer _ hf]
        rfl
  · intro s r room habsent hroom
    have hmade : makeRoom none s.pt = some room := by
      rcases hroom with ⟨hfree, rfl⟩ | ⟨hfull, hevicts⟩
      · exact makeRoom_of_free hfree
      · rw [makeRoom_of_full hfull, hevicts]
    have hothers : ∀ p ∈ room, p.node ≠ r.src := fun p hp => habsent p ((makeRoom_sublist hmade).1.subset hp)
    refine ⟨_, (decideData_created hothers s).symm, ?_⟩
    rw [decideData_of_room habsent hmade]
    simp only [stampCreated, lastPlace_iff, decideRow_keeps]
  · rintro s _ r habsent hlength hkept rfl n sl hs hdata hnone
    exact not_eligible_at_last_place habsent hlength hkept hs hdata hnone
  · intro s r habsent hfull hkept
    have hnone : makeRoom none s.pt = none := by
      rw [makeRoom_of_full hfull, evictOne_eq_none]
      exact fun p hp => evictable_eq_false_iff.mpr ((hkept p hp).imp_right .inl)
    rw [decideData_of_full habsent hnone]
    rfl
  · rintro v stop s u _ r b sort hends hcheck hk hacc hst rfl
    obtain ⟨_, hsc, _⟩ := hends.1.keeps
    rw [← hsc, ← atFrameEnd_sc r b u] at hst
    refine frameEnds_good hends hcheck (.inr (by simp [hk])) ?_
    exact (dealGood_of_decided hk hacc hst).symm

end Sys2Proof.Machine
end

section
/-! SUPPORT. The answer to an attempt (R150 to R152): a valid ACK and BUSY, the validity test at the frame end, and the
candidate that fails (R109). -/

namespace Sys2Proof.Machine

open Sys2Proof

variable {s u : State} {r : Rx} {n : SlotId} {sl : Slot} {p : Peer}

/-! ### Valid responses -/

/-- The entry of the peer that accepted stands at the front, in sync, with tx next seq toggled (R151). -/
theorem ackPeer_eq {node : Nat} (h : findPeer s.pt node = some p) :
    ackPeer node s = { s with
      pt := { p with synced := true, txSeq := !p.txSeq } :: s.pt.filter fun q => q.node ≠ node } := by
  rw [ackPeer, modifyPeer_touchPeer _ h]

/-- The entry of the peer that is busy stands at the front with its holdoff (R152). -/
theorem busyPeer_eq {node : Nat} (h : findPeer s.pt node = some p) :
    busyPeer node s = { s with
      pt := { p with holdoff := some (s.cfg.holdoff * 256) } :: s.pt.filter fun q => q.node ≠ node
      iu := { s.iu with flowBusy := true } } := by
  rw [busyPeer, modifyPeer_touchPeer _ h]
  rfl

theorem takeAck_of (hs : slotAt s n = some sl) (hp : sl.phase = .awaiting) :
    takeAck n s = reevaluate
      (completeSlot n .delivered { sl with attempts := sl.attempts + 1, uncertain := false } (ackPeer sl.dest s)) := by
  simp only [takeAck, slotWhen_of hs hp]

/-- The record of a slot whose attempt drew a valid BUSY (R81). -/
def busyCounted (reason : Byte) (sl : Slot) : Slot :=
  { sl with busyCount := sl.busyCount + 1, reason := some reason, uncertain := false }

theorem takeBusy_of (hs : slotAt s n = some sl) (hp : sl.phase = .awaiting) (reason : Byte) :
    takeBusy n reason s = reevaluate
      (if sl.abortPending then completeSlot n .aborted (busyCounted reason sl) (busyPeer sl.dest s)
      else if 16 ≤ sl.busyCount + 1 then completeSlot n .refused (busyCounted reason sl) (busyPeer sl.dest s)
      else requeueFront n (busyCounted reason sl) (busyPeer sl.dest s)) := by
  simp only [takeBusy, slotWhen_of hs hp]
  rfl

/-! ### The candidate -/

theorem awaitingSlot_of_only (hs : slotAt s n = some sl) (hp : sl.phase = .awaiting)
    (hothers : ∀ m, m ≠ n → slotIn s .awaiting m = false) : awaitingSlot s = some n := by
  refine awaitingSlot_only hs hp fun m sm hsm hpm => ?_
  by_contra hne
  have hawaits : slotIn s .awaiting m = true := slotIn_iff.mpr ⟨sm, hsm, hpm⟩
  rw [hothers m hne] at hawaits
  cases hawaits

theorem candidateFailed_of (hc : r.candidate = true) (hawaits : awaitingSlot s = some n) :
    candidateFailed r s = takeNoResponse n s := by
  simp only [candidateFailed, hc, if_true, failCandidate, hawaits]

/-- What makes a response valid (R150). -/
theorem validResponse_iff :
    validResponse s sl r = true ↔
      r.src = sl.dest ∧ s.sc.address = some r.dest ∧ (r.kind = .ack → r.seq = sl.sentSeq) := by
  simp [validResponse, and_assoc, ← imp_iff_not_or]

/-- PT judges the candidate by the validity test (R150 to R152). -/
theorem judgeCandidate_of (hawaits : awaitingSlot s = some n) (hs : slotAt s n = some sl)
    (hk : r.kind = .ack ∨ r.kind = .busy) :
    judgeCandidate r s =
      if validResponse s sl r then (if r.kind = .ack then takeAck n s else takeBusy n r.reason s)
      else takeNoResponse n s := by
  simp only [judgeCandidate, hawaits, hs]
  rcases hk with hk | hk <;> simp [hk]

/-- The state at a frame end with the reception over, before the candidate is reported (R106). -/
def heardOut (b : Byte) (u : State) : State :=
  receptionOver .hunt (decide (quietAtStop b .recessive < 4)) (quietAtStop b .recessive) u

/-- A good ACK or BUSY with the candidate mark is judged at its frame end, and is dealt with no further (R106, R108). -/
theorem frameEnds_judged {v b : Byte} {stop : LineBit} (h : FrameEnds v stop s r b u)
    (hcheck : checkChars r.crc = [r.checkHigh, b]) (hc : r.candidate = true) (hk : r.kind = .ack ∨ r.kind = .busy) :
    ∃ t, exec (.characterReceived v stop) s = .next t ∧
      ReturnsToQuiet s (judgeCandidate r.counted (heardOut b u)) t := by
  obtain ⟨_, _, _, _, _, _, _, hmode, _⟩ := h.1.keeps
  have hjudged (w : State) : reportCandidate .good r.counted w = judgeCandidate r.counted w := by
    refine if_pos ?_
    rcases hk with hk | hk <;> simp [Rx.counted, hk]
  rw [exec_characterReceived_frameEnd h, if_pos hcheck]
  refine ⟨_, rfl, endReception_spec (how := .good) (x := r.counted) (c := judgeCandidate r.counted (heardOut b u))
    rfl hmode ?_ ?_⟩
  · exact ((if_pos (show r.counted.candidate = true from hc)).trans (hjudged _)).symm
  · rw [if_pos rfl, dealGood_of_response (r := r.counted) hk]

/-- Settles O58: the two answers by what PT and the slot make of them, and the test that tells them from a failure. -/
theorem validResponses : Obligations.ValidResponses := by
  refine ⟨fun s n sl p reason hs hp hf => ⟨?_, ?_⟩, ?_, fun s r n sl hc hs hp hothers => ?_⟩
  · rw [takeAck_of hs hp, ackPeer_eq hf]
    exact reevaluate_spec _
  · rintro _ _ rfl rfl
    rw [takeBusy_of hs hp, busyPeer_eq hf]
    exact reevaluate_spec _
  · intro v stop s u w r b n sl hends hcheck hc hk hs hp hothers (hw : w = heardOut b u)
    obtain ⟨_, hsc, _, _, _, hts, _⟩ := hends.1.keeps
    obtain ⟨t, hexec, hquiet⟩ := frameEnds_judged hends hcheck hc hk
    obtain ⟨hwsc, hwts⟩ : w.sc = s.sc ∧ w.ts = s.ts := by rw [hw, ← hsc, ← hts]; exact ⟨rfl, rfl⟩
    have hsw : slotAt w n = some sl := (slotAt_congr (by rw [hwts]) n).trans hs
    have hawaits : awaitingSlot w = some n :=
      awaitingSlot_of_only hsw hp fun m hm => by simpa [slotIn, slotAt, hwts] using hothers m hm
    rw [← hw, judgeCandidate_of (r := r.counted) hawaits hsw hk] at hquiet
    rw [← hwsc, ← validResponse_iff (s := w)]
    refine ⟨fun hvalid => ⟨t, hexec, ?_⟩, fun hinvalid => ⟨t, hexec, ?_⟩⟩
    · rwa [if_pos (show validResponse w sl r.counted = true from hvalid)] at hquiet
    · rw [candidateFailed_of hc hawaits]
      rwa [if_neg (show ¬ validResponse w sl r.counted = true from hinvalid)] at hquiet
  · rw [candidateFailed_of hc (awaitingSlot_of_only hs hp hothers), takeNoResponse, endUnanswered_of hs hp]
    exact reevaluate_spec _

end Sys2Proof.Machine
end

section
/-! SUPPORT. The station commands (R164 to R168): the body of each by the state that it finds, and the way out of ONLINE
or LOOP beside the code that the command records. -/

namespace Sys2Proof.Machine

open Sys2Proof

variable {s u : State}

/-! ### The rows -/

theorem exec_goOnline (h : s.resetLow = false) : exec .goOnline s = .next (goOnlineBody (recordCode 0x40 s)) := by
  rw [exec, execGoOnline, hostAccess_of_high _ h]

theorem exec_goListen (h : s.resetLow = false) : exec .goListen s = .next (goListenBody (recordCode 0x41 s)) := by
  rw [exec, execGoListen, hostAccess_of_high _ h]

theorem exec_goLoop (h : s.resetLow = false) : exec .goLoop s = .next (goLoopBody (recordCode 0x42 s)) := by
  rw [exec, execGoLoop, hostAccess_of_high _ h]

theorem exec_goOffline (h : s.resetLow = false) : exec .goOffline s = .next (goOfflineBody (recordCode 0x43 s)) := by
  rw [exec, execGoOffline, hostAccess_of_high _ h]

theorem exec_setAddress (h : s.resetLow = false) : exec .setAddress s = .next (setAddressBody (recordCode 0x44 s)) := by
  rw [exec, execSetAddress, hostAccess_of_high _ h]

/-! ### The station state replaced -/

theorem setStation_of_station {st : Station} (h : s.sc.station = st) : setStation st s = s := by
  subst h
  rfl

/-- A reception that is abandoned gives its blocks back (R61, R112). -/
theorem abandonReception_eq (s : State) :
    abandonReception s = { s with
      fr := { s.fr with record := none }, bp := { s.bp with free := s.bp.free ++ recordBlocks s } } := by
  obtain ⟨_, _, _, ⟨_, _, record, _⟩⟩ := s
  cases record with
  | none => simp [abandonReception, recordBlocks]
  | some r => rfl

/-! ### The way out of ONLINE or LOOP, beside the code of the command -/

theorem requeueFront_recordCode (n : SlotId) (sl : Slot) (code : Byte) (s : State) :
    requeueFront n sl (recordCode code s) = recordCode code (requeueFront n sl s) := by
  rw [requeueFront_eq, requeueFront_eq]
  rfl

theorem completeSlot_recordCode (n : SlotId) (o : SlotOutcome) (sl : Slot) (code : Byte) (s : State) :
    completeSlot n o sl (recordCode code s) = recordCode code (completeSlot n o sl s) := by
  rw [completeSlot_eq, completeSlot_eq]
  rfl

theorem afterNoAnswer_recordCode (n : SlotId) (sl : Slot) (code : Byte) (s : State) :
    afterNoAnswer n sl (recordCode code s) = recordCode code (afterNoAnswer n sl s) := by
  simp only [afterNoAnswer, completeSlot_recordCode, requeueFront_recordCode, apply_ite (recordCode code),
    recordCode_cfg]

/-- What R90 does to the slot does not look at the code of the command. -/
theorem SlotStopped.recordCode (code : Byte) (h : SlotStopped s u) :
    SlotStopped (Machine.recordCode code s) (Machine.recordCode code u) := by
  rcases h with ⟨hno, rfl⟩ | ⟨n, sl, hs, honly, h⟩
  · exact .inl ⟨hno, rfl⟩
  · refine .inr ⟨n, sl, hs, honly, ?_⟩
    rcases h with ⟨hp, ho, rfl⟩ | ⟨hp, hb, rfl⟩ | ⟨hp, rfl⟩
    · exact .inl ⟨hp, ho, rfl⟩
    · exact .inr (.inl ⟨hp, hb, (requeueFront_recordCode n sl code s).symm⟩)
    · exact .inr (.inr ⟨hp, (afterNoAnswer_recordCode n sl code s).symm⟩)

theorem leaveLine_recordCode {target : Station} (code : Byte) (h : SlotStopped s u)
    (hs : s.sc.station = .online ∨ s.sc.station = .loop) :
    leaveLine target (recordCode code s) = recordCode code (leftLine target s u) := by
  rw [leaveLine_spec (h.recordCode code) hs]
  rfl

end Sys2Proof.Machine
end

section
/-! SUPPORT. GO_ONLINE by the state that it finds (R165). -/

namespace Sys2Proof.Machine

open Sys2Proof

variable {s u : State}

theorem goOnlineBody_of_no_address (h : u.sc.address = none) : goOnlineBody u = answerBare .badState u := by
  simp only [goOnlineBody, h]

theorem goOnlineBody_of_address (h : u.sc.address ≠ none) :
    goOnlineBody u = answerBare .ok (reevaluate (goOnlineChange (clearFaults u))) := by
  obtain ⟨a, ha⟩ := Option.ne_none_iff_exists'.mp h
  simp only [goOnlineBody, ha]

@[simp] theorem clearFaults_faults (s : State) : (clearFaults s).lac.faults = 0 := rfl

/-- With the address present, GO_ONLINE re-evaluates what its change of state makes. -/
theorem exec_goOnline_of_change {w : State} (hhigh : s.resetLow = false) (ha : s.sc.address ≠ none)
    (hchange : goOnlineChange (clearFaults (recordCode 0x40 s)) = recordCode 0x40 w) :
    ∃ t, exec .goOnline s = .next t ∧ Reevaluated (withResults 0x40 .ok .zero w) t := by
  refine ⟨_, exec_goOnline hhigh, ?_⟩
  rw [goOnlineBody_of_address (u := recordCode 0x40 s) ha, hchange]
  exact (reevaluate_spec (recordCode 0x40 w)).answer .ok .zero

/-- In LISTEN, SILENT and ONLINE only the station state changes (R165). -/
theorem goOnlineChange_of_hearing (h : u.sc.station = .listen ∨ u.sc.station = .silent ∨ u.sc.station = .online) :
    goOnlineChange u = setStation .online u := by
  rcases h with h | h | h
  · simp only [goOnlineChange, h]
  · simp only [goOnlineChange, h]
  · simp only [goOnlineChange, h, setStation_of_station h]

theorem goOnlineChange_of_loop (h : u.sc.station = .loop) : goOnlineChange u = leaveLine .online u := by
  simp only [goOnlineChange, h]

/-- LAC and FR once the station has left LOOP for a running state (R171, R112). -/
theorem leaveLine_of_loop {target : Station} (hs : u.sc.station = .loop) (ht : target ≠ .offline) :
    (leaveLine target u).sc = { u.sc with station := target } ∧ (leaveLine target u).lac.mode = .quiet ∧
      (leaveLine target u).lac.quiet = 0 ∧ (leaveLine target u).lac.burst = none ∧
      (leaveLine target u).lac.order = none ∧ (leaveLine target u).lac.window = none ∧
      (leaveLine target u).lac.demoted = .all false ∧ (leaveLine target u).fr.mode = .recover ∧
      (leaveLine target u).fr.record = none := by
  simp [leaveLine, stopLac, stopReceiver, hs, ht, setStation]

/-- Settles O31: the address, then the state that the command finds. -/
theorem goOnlineByTheStateFound : Obligations.GoOnlineByTheStateFound := by
  intro s hhigh
  refine ⟨fun hnone => ?_, fun ha => ⟨fun hst => ?_, fun hst => ?_, fun hst => ?_, ?_⟩⟩
  · rw [exec_goOnline hhigh, goOnlineBody_of_no_address (u := recordCode 0x40 s) hnone]
    rfl
  · refine exec_goOnline_of_change hhigh ha ?_
    simp only [goOnlineChange, clearFaults, recordCode, hst]
    rfl
  · refine exec_goOnline_of_change hhigh ha ?_
    rw [goOnlineChange_of_hearing (u := clearFaults (recordCode 0x40 s)) hst]
    rfl
  · refine ⟨_, exec_goOnline hhigh, ?_⟩
    rw [goOnlineBody_of_address (u := recordCode 0x40 s) ha, goOnlineChange_of_loop (by exact hst)]
    have hleft := leaveLine_of_loop (u := clearFaults (recordCode 0x40 s)) (target := .online) hst (by decide)
    simpa [answerBare] using hleft
  · rintro v u hst rfl hstopped
    refine exec_goOnline_of_change hhigh ha ?_
    rw [goOnlineChange_of_loop (by exact hst)]
    exact leaveLine_recordCode 0x40 hstopped (.inr hst)

end Sys2Proof.Machine
end

section
/-! SUPPORT. GO_LISTEN, GO_LOOP and GO_OFFLINE by the state that they find (R166 to R168, R171), and SET_ADDRESS
(R164). -/

namespace Sys2Proof.Machine

open Sys2Proof

variable {s u : State}

/-! ### The bodies, by the state found -/

theorem goListenBody_of_offline (h : u.sc.station = .offline) :
    goListenBody u = answerBare .ok (enterRunning .listen u) := by
  simp only [goListenBody, h]

theorem goListenBody_of_hearing (h : u.sc.station = .listen ∨ u.sc.station = .silent) :
    goListenBody u = answerBare .ok (setStation .listen u) := by
  rcases h with h | h
  · simp only [goListenBody, h, setStation_of_station h]
  · simp only [goListenBody, h]

theorem goListenBody_of_sends (h : u.sc.station = .online ∨ u.sc.station = .loop) :
    goListenBody u = answerBare .ok (leaveLine .listen u) := by
  rcases h with h | h <;> simp only [goListenBody, h]

theorem goLoopBody_of_offline (h : u.sc.station = .offline) (ha : u.sc.address ≠ none) :
    goLoopBody u = answerBare .ok (reevaluate (enterRunning .loop u)) := by
  obtain ⟨a, ha⟩ := Option.ne_none_iff_exists'.mp ha
  simp only [goLoopBody, h, ha]

theorem goLoopBody_refused (h : u.sc.station ≠ .offline ∨ u.sc.address = none) :
    goLoopBody u = answerBare .badState u := by
  unfold goLoopBody
  split
  · next hst ha => simp [hst, ha] at h
  · rfl

theorem goOfflineBody_of_offline (h : u.sc.station = .offline) :
    goOfflineBody u = answerBare .ok (discardNotice u) := by
  simp only [goOfflineBody, h]

theorem goOfflineBody_of_hearing (h : u.sc.station = .listen ∨ u.sc.station = .silent) :
    goOfflineBody u = answerBare .ok (discardNotice (stopHearing u)) := by
  rcases h with h | h <;> simp only [goOfflineBody, h]

theorem goOfflineBody_of_sends (h : u.sc.station = .online ∨ u.sc.station = .loop) :
    goOfflineBody u = answerBare .ok (discardNotice (leaveLine .offline u)) := by
  rcases h with h | h <;> simp only [goOfflineBody, h]

/-- A station that only hears goes OFFLINE: LAC and FR stand still, and a reception is abandoned (R168, R112). -/
theorem stopHearing_eq (u : State) :
    stopHearing u = { u with
      sc := { u.sc with station := .offline }
      lac := { u.lac with mode := .offline, quiet := 0 }
      fr := { u.fr with mode := .off, guard := false, record := none }
      bp := { u.bp with free := u.bp.free ++ recordBlocks u } } := by
  rw [stopHearing, abandonReception_eq]
  rfl

/-- GO_LISTEN out of ONLINE or LOOP (R171). -/
theorem exec_goListen_of_sends (hhigh : s.resetLow = false) (hu : SlotStopped s u)
    (hst : s.sc.station = .online ∨ s.sc.station = .loop) :
    exec .goListen s = .next (withResults 0x41 .ok .zero (leftLine .listen s u)) := by
  rw [exec_goListen hhigh, goListenBody_of_sends (u := recordCode 0x41 s) hst, leaveLine_recordCode _ hu hst]
  rfl

/-- Settles O32: by the state that each command finds. -/
theorem stationCommandsOffTheLine : Obligations.StationCommandsOffTheLine := by
  intro s hhigh
  rw [exec_goOffline hhigh, exec_goLoop hhigh]
  refine ⟨fun hst => ⟨?_, ?_, fun hnone => ?_, fun ha => ⟨_, rfl, ?_⟩⟩, fun hst => ?_, fun hst => ⟨?_, ?_⟩,
    fun u hu => ⟨fun hst => exec_goListen_of_sends hhigh hu (.inr hst), fun hst => ?_⟩⟩
  · rw [exec_goListen hhigh, goListenBody_of_offline (u := recordCode 0x41 s) hst]
    rfl
  · rw [goOfflineBody_of_offline (u := recordCode 0x43 s) hst]
    rfl
  · rw [goLoopBody_refused (u := recordCode 0x42 s) (.inr hnone)]
    rfl
  · rw [goLoopBody_of_offline (u := recordCode 0x42 s) hst ha]
    exact (reevaluate_spec (enterRunning .loop (recordCode 0x42 s))).answer .ok .zero
  · rw [goLoopBody_refused (u := recordCode 0x42 s) (.inl hst)]
    rfl
  · rw [exec_goListen hhigh, goListenBody_of_hearing (u := recordCode 0x41 s) hst]
    rfl
  · rw [goOfflineBody_of_hearing (u := recordCode 0x43 s) hst, stopHearing_eq]
    rfl
  · rw [goOfflineBody_of_sends (u := recordCode 0x43 s) hst, leaveLine_recordCode _ hu hst]
    rfl

/-! ### A frame on the line -/

/-- The slot whose frame is cut stands in QUEUED, and no other is AWAITING: no window is left to close. -/
theorem closeWindow_requeueFront {n : SlotId} (sl : Slot) (h : ∀ m, slotIn u .awaiting m = false) :
    closeWindow (requeueFront n sl u) = requeueFront n sl u := by
  refine closeWindow_none fun m sm hm hp => ?_
  have hslots : (requeueFront n sl u).ts.slots = (setSlot n (some { sl with phase := .queued }) u).ts.slots := by simp
  rw [slotAt_congr hslots, slotAt_setSlot] at hm
  split at hm
  · cases hm
    cases hp
  · simpa [slotIn, hm, hp] using h m

/-- TS where the frame of a slot is on the line, without an offer, an AWAITING slot or a committed notice (R90). -/
theorem stopScheduler_of_sending {n : SlotId} {ahead : List SlotId} {b : Burst} {sl : Slot}
    (hb : u.lac.burst = some b) (hsrc : b.source = .slot n ahead) (hs : slotAt u n = some sl) (hp : sl.phase = .sending)
    (ho : u.lac.offer = none) (ha : ∀ m, slotIn u .awaiting m = false) (hn : noticeCommitted u = false) :
    stopScheduler u = requeueFront n sl u := by
  have hcut : cutSlot u = requeueFront n sl u := by
    obtain ⟨src, chars, bits⟩ := b
    obtain rfl : src = .slot n ahead := hsrc
    simp only [cutSlot, hb, endCut, slotWhen_of hs hp]
  have hwithdraw : withdrawOffer u = u := by simp only [withdrawOffer, ho]
  have hreturn : noticeCommitted (requeueFront n sl u) = false := by rw [noticeCommitted_congr (s := u) (by simp), hn]
  rw [stopScheduler, hwithdraw, hcut, closeWindow_requeueFront sl ha, returnNotice, hreturn]
  rfl

/-- After a cut frame of its own, with no reception in progress, FR is in RECOVER (R97). -/
theorem stopReceiver_of_driving (hr : u.fr.record = none) :
    stopReceiver .online .listen true u = { u with fr := { u.fr with mode := .recover, guard := false } } := by
  obtain ⟨_, _, _, ⟨_, _, record, _⟩⟩ := u
  obtain rfl : record = none := hr
  rfl

/-- LAC leaves ONLINE for LISTEN in QUIET unless it receives, and the quiet count runs on (R43, R22; log 16). -/
theorem stopLac_of_driving (hd : u.lac.mode.drives) :
    stopLac .online .listen u = { u with lac := { u.lac with
      mode := .quiet, demoted := .all false, order := none, window := none, burst := none, path := [] } } := by
  cases hm : u.lac.mode <;> simp [hm, LacMode.drives] at hd <;> simp [stopLac, hm]

/-- Settles O33: what leaving ONLINE leaves, and with a slot's frame on the line, the slot at the front of its queue. -/
theorem leavingOnlineCutsTheFrame : Obligations.LeavingOnlineCutsTheFrame := by
  refine ⟨fun s u hhigh hst hu => exec_goListen_of_sends hhigh hu (.inl hst), ?_⟩
  intro s n ahead b sl hhigh hst hb hsrc hs hp hdrives ho hr ha hn
  have hstop : stopScheduler (setStation .listen (recordCode 0x41 s)) =
      requeueFront n sl (setStation .listen (recordCode 0x41 s)) :=
    stopScheduler_of_sending hb hsrc hs hp ho ha hn
  rw [exec_goListen hhigh, goListenBody_of_sends (u := recordCode 0x41 s) (.inl hst), leaveLine, hstop]
  simp only [recordCode_sc, recordCode_lac, hst, hb, Option.isSome_some]
  rw [stopReceiver_of_driving (by simpa using hr), stopLac_of_driving (by simpa using hdrives), requeueFront_eq]
  rfl

/-! ### SET_ADDRESS -/

theorem addressOf_of_node {v : Byte} (h : v.toNat ≤ 47) : addressOf v = some (some v.toNat) := by
  have hv : v ≠ 0xFF := by rintro rfl; simp at h
  rw [addressOf, if_neg hv, if_pos (by exact h)]

theorem addressOf_of_large {v : Byte} (h : 47 < v.toNat) (hv : v ≠ 0xFF) : addressOf v = none := by
  rw [addressOf, if_neg hv, if_neg (by exact Nat.not_le.mpr h)]

/-- The bytes that SET_ADDRESS takes (R202). -/
theorem addressOf_of_taken {v : Byte} (h : v.toNat ≤ 47 ∨ v = 0xFF) :
    addressOf v = some (if v = 0xFF then none else some v.toNat) := by
  by_cases hv : v = 0xFF
  · rw [addressOf, if_pos hv, if_pos hv]
  · rw [if_neg hv, addressOf_of_node (h.resolve_right hv)]

/-- Settles O34: the argument, then the state. -/
theorem setAddressOnlyOffline : Obligations.SetAddressOnlyOffline := by
  intro s hhigh
  rw [exec_setAddress hhigh]
  refine ⟨fun hlarge hne => ?_, fun htaken => ⟨fun hst => ?_, fun hst => ?_⟩⟩
  · simp only [setAddressBody, recordCode_hp_args, addressOf_of_large hlarge hne]
    rfl
  · simp only [setAddressBody, recordCode_hp_args, addressOf_of_taken htaken, recordCode_sc, hst]
    rfl
  · simp only [setAddressBody, recordCode_hp_args, addressOf_of_taken htaken, recordCode_sc, hst]
    rfl

end Sys2Proof.Machine
end

section
/-! SUPPORT. RESET# low (R200, R177): what each row and each view answers then; and the pins LDIR and LTX while it is
high (R41, R1, R3, R174). -/

namespace Sys2Proof.Machine

open Sys2Proof

variable {s : State}

/-! ### The rows while RESET# is low -/

section
variable (hlow : s.resetLow = true)
include hlow

/-- What a host access makes of the state (`hostAccess`), whatever `u` it would make while RESET# is high. -/
theorem access_of_low (u : State) :
    (.next (if s.resetLow then s else u) : Host.Outcome State Fault Refusal) = .next s := by simp [hlow]

/-- What a line event makes of the state (`lineEvent`), likewise. -/
theorem event_of_low (holds : Bool) (u : State) :
    (.next (if !s.resetLow && holds then u else s) : Host.Outcome State Fault Refusal) = .next s := by simp [hlow]

theorem hostRead_of_low (f : State → State) : hostRead f s = .next (drive 0 s) := by simp [hostRead, hlow]

/-- A read returns 00h and has no side effect (R200). -/
theorem exec_read_of_low {c : Instr}
    (hc : c ∈ ([.stnRead, .rxstatRead, .flowRead, .hstatRead, .windataRead, .cntlRead] : List Instr)) :
    exec c s = .next (drive 0 s) := by
  cases c with
  | stnRead | rxstatRead | flowRead | hstatRead | cntlRead => exact hostRead_of_low hlow _
  | windataRead => exact if_pos hlow
  | _ => simp at hc

/-- Every row but the reads and those of RESET# and of the supply changes nothing (R200, R177). -/
theorem exec_other_of_low {c : Instr}
    (hc : c ∉ ([.stnRead, .rxstatRead, .flowRead, .hstatRead, .windataRead, .cntlRead, .resetAsserted,
      .resetReleased, .powerUp] : List Instr)) : exec c s = .next s := by
  cases c with
  | stnRead | rxstatRead | flowRead | hstatRead | windataRead | cntlRead | resetAsserted | resetReleased | powerUp =>
    simp at hc
  | windataWrite | registerWrite | characterReceived => exact if_pos hlow
  | startBit | gapGuardClear | gapLimitTruncation | gapLimitRecover | dominantBitInRecover | demotionClear
  | holdoffExpiry | staleTimerExpiry => exact event_of_low hlow _ _
  | contentionLost | leadWon | echoFault | frameSent | responseSent | noResponse =>
    simp only [exec, execContentionLost, execLeadWon, execEchoFault, execFrameSent, execResponseSent, execNoResponse]
    split
    · rfl
    · exact event_of_low hlow _ _
  | leadStart | responseStart =>
    simp only [exec, execLeadStart, execResponseStart, hlow, Bool.not_true, Bool.false_and]
    split <;> rfl
  | _ => exact access_of_low hlow _

theorem ldirAsserted_of_low : ldirAsserted s = false := by simp [ldirAsserted, hlow]

end

/-! ### The pins -/

/-- LDIR is asserted exactly in ONLINE while LAC drives (R41). -/
theorem ldirAsserted_iff (hhigh : s.resetLow = false) :
    ldirAsserted s = true ↔ s.sc.station = .online ∧
      (s.lac.mode = .contend ∨ s.lac.mode = .send ∨ s.lac.mode = .respond) := by
  have hdrives : s.lac.mode.drives = true ↔ s.lac.mode = .contend ∨ s.lac.mode = .send ∨ s.lac.mode = .respond := by
    cases s.lac.mode <;> simp [LacMode.drives]
  simp [ldirAsserted, hhigh, hdrives]

theorem ltxHigh_of_negated (h : ldirAsserted s = false) : ltxHigh s = true := by simp [ltxHigh, h]

/-- Bit `i` of a character on the line: the start bit dominant, the data bits from bit 7 on, the stop bit recessive
(R3). -/
theorem characterBits_getD (c : Byte) {i : Nat} (hi : i < 10) :
    ((characterBits c).getD i .recessive == .recessive) =
      (if i = 0 then false else if i = 9 then true else c.getLsbD (8 - i)) := by
  have hbit (b : Bool) : (lineBit b == .recessive) = b := by cases b <;> rfl
  by_cases hstart : i = 0
  · subst hstart; rfl
  by_cases hstop : i = 9
  · subst hstop; rfl
  have hdata : 1 ≤ i ∧ i ≤ 8 := by omega
  obtain ⟨hfirst, hlast⟩ := hdata
  rw [if_neg hstart, if_neg hstop]
  interval_cases i <;> exact hbit _

/-- The characters of a frame are sent back to back, ten bits each (R3). -/
theorem frameBit_of_character {chars : List Byte} {c : Byte} {k i : Nat} (hi : i < 10) (hc : chars[k]? = some c) :
    frameBit chars (10 * k + i) = (characterBits c).getD i .recessive := by
  have hk : (10 * k + i) / Config.characterBits = k := by simp only [Config.characterBits]; omega
  have hm : (10 * k + i) % Config.characterBits = i := by simp only [Config.characterBits]; omega
  simp only [frameBit, hk, hm, hc]

/-- Settles O5: the rows and the views while RESET# is low, the pins while it is high. -/
theorem nothingIsTakenWhileResetIsLow : Obligations.NothingIsTakenWhileResetIsLow := by
  refine ⟨fun s hlow => ⟨fun c hc => exec_read_of_low hlow hc, fun c hc => exec_other_of_low hlow hc,
    fun offset => if_pos hlow, by simp [intAsserted, hlow], ldirAsserted_of_low hlow,
    ltxHigh_of_negated (ldirAsserted_of_low hlow)⟩,
    fun s hhigh => ⟨ldirAsserted_iff hhigh, ltxHigh_of_negated, fun hst => ?_, fun b k i c hldir hb hbits hi hc => ?_⟩⟩
  · have hldir : ldirAsserted s = false := by simp [ldirAsserted, hst]
    exact ⟨hldir, ltxHigh_of_negated hldir⟩
  · simp only [ltxHigh, hldir, if_true, hb]
    rw [hbits, frameBit_of_character hi hc, characterBits_getD c hi]

end Sys2Proof.Machine
end

section
/-! SUPPORT. What the operations of the line leave standing: the station state, the address, the group list, the
configuration, and the results and arguments of the command interface. -/

namespace Sys2Proof.Machine

open Sys2Proof

/-- The states agree on the station state, the address, the group list, the configuration, and the results and
arguments of the command interface. -/
structure Stands (s t : State) : Prop where
  station : t.sc.station = s.sc.station
  address : t.sc.address = s.sc.address
  groups : t.fr.groups = s.fr.groups
  cfg : t.cfg = s.cfg
  args : t.hp.args = s.hp.args
  res : t.hp.res = s.hp.res
  cst : t.hp.cst = s.hp.cst
  cmd : t.hp.cmd = s.hp.cmd

variable {s t u : State} {b : Byte} {r : Rx}

theorem Stands.refl (s : State) : Stands s s := by constructor <;> rfl

theorem Stands.trans (h : Stands s t) (k : Stands t u) : Stands s u where
  station := k.station.trans h.station
  address := k.address.trans h.address
  groups := k.groups.trans h.groups
  cfg := k.cfg.trans h.cfg
  args := k.args.trans h.args
  res := k.res.trans h.res
  cst := k.cst.trans h.cst
  cmd := k.cmd.trans h.cmd

/-- An operation of the line that touches neither SC nor HP nor the configuration, and of FR not the group list. -/
theorem stands_of_blocks (hsc : t.sc = s.sc) (hgroups : t.fr.groups = s.fr.groups) (hcfg : t.cfg = s.cfg)
    (hhp : t.hp = s.hp) : Stands s t where
  station := by rw [hsc]
  address := by rw [hsc]
  groups := hgroups
  cfg := hcfg
  args := by rw [hhp]
  res := by rw [hhp]
  cst := by rw [hhp]
  cmd := by rw [hhp]

/-! ### The marks of the quiet count, and a start bit -/

/-- A mark of the quiet count moves FR's mode and guard alone (R95, R96). -/
@[simp] theorem reachQuiet_groups (n : Nat) (s : State) : (reachQuiet n s).fr.groups = s.fr.groups := by
  simp only [reachQuiet, Fr.atQuiet]
  split
  · split <;> rfl
  · split <;> rfl
  · rfl

theorem stands_reachQuiet (n : Nat) (s : State) : Stands s (reachQuiet n s) :=
  stands_of_blocks (by simp) (by simp) (by simp) (by simp)

theorem stands_endReception (how : Ending) (s : State) : Stands s (endReception how s) := by constructor <;> simp

theorem stands_closeAtDeadline (s : State) : Stands s (closeAtDeadline s) := by
  unfold closeAtDeadline
  split
  · exact .refl s
  · exact stands_of_blocks (by simp) (by simp) (by simp) (by simp)

theorem stands_takeMarks (s : State) : Stands s (takeMarks s) :=
  takeMarks_stages (P := Stands s) (.refl s) (fun n u h => h.trans (stands_reachQuiet n u))
    (fun u h _ => h.trans (stands_endReception _ u)) (fun u h _ => h.trans (stands_closeAtDeadline u))
    fun _ h => h.trans (stands_of_blocks rfl rfl rfl rfl)

theorem stands_otherDominant (s : State) : Stands s (otherDominant s) := stands_of_blocks rfl rfl rfl rfl

theorem stands_takeStartBit (s : State) : Stands s (takeStartBit s) :=
  stands_of_blocks (by simp) (by simp) (by simp) (by simp)

/-! ### A character -/

theorem stands_takeHeader (b : Byte) (r : Rx) (s : State) : Stands s (takeHeader b r s) := by constructor <;> simp

theorem stands_takeCheck (b : Byte) (r : Rx) (s : State) : Stands s (takeCheck b r s) := by constructor <;> simp

theorem stands_bodyDone (r : Rx) (s : State) : Stands s (bodyDone r s) := by
  unfold bodyDone
  split
  · exact stands_of_blocks rfl rfl rfl rfl
  · exact .refl s

theorem stands_setRecord (r : Rx) (s : State) : Stands s (setRecord r s) := stands_of_blocks rfl rfl rfl rfl

theorem stands_storeMessageByte {chain : List Block} {k : Nat} (h : storeMessageByte chain k b s = some t) :
    Stands s t := by
  obtain ⟨a, _, rfl⟩ := Option.map_eq_some_iff.mp h
  exact stands_of_blocks rfl rfl rfl rfl

theorem stands_takeBody (ht : takeBody b r s = some t) : Stands s t := by
  unfold takeBody at ht
  split at ht
  · cases ht; exact (stands_setRecord _ s).trans (stands_bodyDone r _)
  · split at ht
    · obtain ⟨u, hu, rfl⟩ := Option.map_eq_some_iff.mp ht
      exact ((stands_storeMessageByte hu).trans (stands_setRecord _ u)).trans (stands_bodyDone r _)
    · cases ht; exact (stands_setRecord _ s).trans (stands_bodyDone r _)

theorem stands_takeComplete (ht : takeComplete b r s = some t) : Stands s t := by
  unfold takeComplete at ht
  dsimp only at ht
  split at ht
  · cases ht; exact (stands_setRecord _ s).trans (stands_takeHeader _ _ _)
  · exact (stands_setRecord _ s).trans (stands_takeBody ht)
  · cases ht; exact (stands_setRecord _ s).trans (stands_takeCheck _ _ _)
  · cases ht; exact .refl _

theorem stands_takeCharacter {stop : LineBit} (ht : takeCharacter b stop r s = some t) : Stands s t := by
  have hquiet (q : Nat) : Stands s { s with lac := { s.lac with quiet := q } } := stands_of_blocks rfl rfl rfl rfl
  unfold takeCharacter at ht
  split at ht
  · cases ht; exact (hquiet _).trans (stands_endReception _ _)
  · exact (hquiet _).trans (stands_takeComplete ht)

/-- A character comes from the internal path, or from the line with the marks of the quiet count taken. -/
theorem stands_arrivingCharacter {v c : Byte} {stop st : LineBit}
    (ha : arrivingCharacter v stop s = some (c, st, u)) : Stands s u := by
  unfold arrivingCharacter at ha
  split at ha
  · cases ha
  · split at ha <;> cases ha
    exact stands_of_blocks rfl rfl rfl rfl
  · split at ha <;> cases ha
    split
    · exact .refl s
    · exact stands_takeMarks s

theorem stands_characterReceived {v : Byte} {stop : LineBit} (ht : exec (.characterReceived v stop) s = .next t) :
    Stands s t := by
  simp only [exec, execCharacterReceived] at ht
  split at ht
  · cases ht; exact .refl _
  split at ht
  · cases ht; exact .refl _
  next c st u harrives =>
    have hu : Stands s u := stands_arrivingCharacter harrives
    split at ht
    · split at ht <;> cases ht
      exact hu.trans (stands_takeCharacter (by assumption))
    · split at ht <;> cases ht
      · exact hu.trans (stands_of_blocks rfl rfl rfl rfl)
      · exact .refl _

/-! ### The rows of the line -/

theorem stands_lineEvent {holds : Bool} {f : State → State} (ht : lineEvent holds f s = .next t)
    (hf : Stands s (f s)) : Stands s t := by
  rcases lineEvent_cases ht with rfl | ⟨_, _, rfl⟩
  · exact .refl _
  · exact hf

/-- The rows of the line leave all of it standing; an echo fault alone may lead to SILENT (R163, R169). -/
theorem stands_lineRow {i : Instr} (hi : movesLine i = true)
    (hreset : i ∉ ([.resetAsserted, .resetReleased, .powerUp] : List Instr)) (hfault : ∀ k, i ≠ .echoFault k)
    (ht : exec i s = .next t) : Stands s t := by
  cases i with
  | resetAsserted | resetReleased | powerUp => simp at hreset
  | echoFault k => exact absurd rfl (hfault k)
  | startBit =>
    rw [exec, execStartBit] at ht
    exact stands_lineEvent ht ((stands_takeMarks s).trans (stands_takeStartBit _))
  | characterReceived v stop => exact stands_characterReceived ht
  | gapGuardClear | gapLimitRecover => exact stands_lineEvent ht (stands_reachQuiet _ s)
  | gapLimitTruncation =>
    rw [exec, execGapLimitTruncation] at ht
    exact stands_lineEvent ht ((stands_reachQuiet _ s).trans (stands_endReception _ _))
  | demotionClear c =>
    rw [exec, execDemotionClear] at ht
    have hreached := stands_reachQuiet (Config.demotedThreshold c) s
    exact stands_lineEvent ht (hreached.trans (stands_of_blocks rfl rfl rfl rfl))
  | leadStart =>
    rcases exec_leadStart_cases ht with rfl | ⟨o, chars, _, _, _, rfl⟩
    · exact .refl _
    · exact stands_of_blocks (by simp) (by simp) (by simp) (by simp)
  | contentionLost k =>
    rcases exec_contentionLost_cases ht with rfl | ⟨burst, _, _, _, rfl⟩
    · exact .refl _
    · exact stands_of_blocks (by simp) (by simp) (by simp) (by simp)
  | leadWon =>
    rcases exec_leadWon_cases ht with rfl | ⟨burst, _, _, rfl⟩
    · exact .refl _
    · exact stands_of_blocks rfl rfl rfl rfl
  | frameSent =>
    rcases exec_frameSent_cases ht with rfl | ⟨burst, _, _, rfl⟩
    · exact .refl _
    · exact stands_of_blocks (by simp) (by simp) (by simp) (by simp)
  | responseStart =>
    rcases exec_responseStart_cases ht with rfl | ⟨chars, u, _, _, rfl, rfl⟩
    · exact .refl _
    · refine (stands_reachQuiet Config.responseGap s).trans ((stands_takeMarks _).trans ?_)
      exact stands_of_blocks (by simp) (by simp) (by simp) (by simp)
  | responseSent =>
    rcases exec_responseSent_cases ht with rfl | ⟨burst, _, _, rfl⟩
    · exact .refl _
    · exact stands_of_blocks (by simp) (by simp) (by simp) (by simp)
  | noResponse =>
    rcases exec_noResponse_cases ht with rfl | ⟨_, rfl⟩
    · exact .refl _
    · exact (stands_reachQuiet Config.responseDeadline s).trans (stands_closeAtDeadline _)
  | holdoffExpiry node => exact stands_lineEvent ht (stands_of_blocks (by simp) (by simp) (by simp) (by simp))
  | dominantBitInRecover =>
    rw [exec, execDominantBitInRecover] at ht
    exact stands_lineEvent ht ((stands_takeMarks s).trans (stands_otherDominant _))
  | _ => simp [movesLine] at hi

end Sys2Proof.Machine
end

section
/-! SUPPORT. What each well-formed row leaves standing (R163, R164, R102, R191, R189): the rows of the host port, the
commands, and with the rows of the line every row but those of the resets. -/

namespace Sys2Proof.Machine

open Sys2Proof

variable {s t u : State} {c : Instr}

/-! ### The commands -/

/-- The row that is the write of a command's code to CMD (11.3). -/
def commandRow : HostCommand → Instr
  | .allocate => .allocate
  | .submit => .submit
  | .abort => .abort
  | .collect => .collect
  | .release => .release
  | .flush => .flush
  | .pause => .pause
  | .resume => .resume
  | .forget => .forget
  | .queryPeer => .queryPeer
  | .join => .join
  | .leave => .leave
  | .goOnline => .goOnline
  | .goListen => .goListen
  | .goLoop => .goLoop
  | .goOffline => .goOffline
  | .setAddress => .setAddress
  | .clear => .clear
  | .clearCounters => .clearCounters

/-- The rows of the commands. -/
def commandRows : List Instr :=
  [.allocate, .submit, .abort, .collect, .release, .flush, .pause, .resume, .forget, .queryPeer, .join, .leave,
    .goOnline, .goListen, .goLoop, .goOffline, .setAddress, .clear, .clearCounters]

theorem mem_commandRows : c ∈ commandRows ↔ ∃ k, c = commandRow k := by
  have hrows : commandRows = [HostCommand.allocate, .submit, .abort, .collect, .release, .flush, .pause, .resume,
      .forget, .queryPeer, .join, .leave, .goOnline, .goListen, .goLoop, .goOffline, .setAddress, .clear,
      .clearCounters].map commandRow := rfl
  rw [hrows, List.mem_map]
  exact ⟨fun ⟨k, _, hk⟩ => ⟨k, hk.symm⟩, fun ⟨k, hk⟩ => ⟨k, by cases k <;> simp, hk.symm⟩⟩

theorem exec_commandRow (k : HostCommand) (s : State) :
    exec (commandRow k) s = hostAccess (fun u => commandBody k (recordCode (commandCode k) u)) s := by
  cases k <;> rfl

/-- The station commands and CLEAR alone change the station state (R163, R176). -/
theorem commandBody_station {k : HostCommand}
    (hk : k ∉ ([.goOnline, .goListen, .goLoop, .goOffline, .clear] : List HostCommand)) (u : State) :
    (commandBody k u).sc.station = u.sc.station := by
  cases k with
  | goOnline | goListen | goLoop | goOffline | clear => simp at hk
  | _ => simp [commandBody]

/-- SET_ADDRESS alone changes the node address (R164). -/
theorem commandBody_address {k : HostCommand} (hk : k ≠ .setAddress) (u : State) :
    (commandBody k u).sc.address = u.sc.address := by
  cases k with
  | setAddress => exact absurd rfl hk
  | _ => simp [commandBody, clearBody]

/-- JOIN and LEAVE alone change the group list (R102). -/
theorem commandBody_groups {k : HostCommand} (hjoin : k ≠ .join) (hleave : k ≠ .leave) (u : State) :
    (commandBody k u).fr.groups = u.fr.groups := by
  cases k with
  | join => exact absurd rfl hjoin
  | leave => exact absurd rfl hleave
  | _ => simp [commandBody, clearBody]

/-- No command changes the configuration (R191). -/
theorem commandBody_cfg (k : HostCommand) (u : State) : (commandBody k u).cfg = u.cfg := by
  cases k <;> simp [commandBody, clearBody]

/-- No command changes ARG0 to ARG3 (R189). -/
theorem commandBody_args (k : HostCommand) (u : State) : (commandBody k u).hp.args = u.hp.args := by
  cases k <;> simp [commandBody, clearBody]

/-! ### What each row keeps -/

/-- The rows that may change the station state, but for the resets and an echo fault (R163). -/
def stationRows : List Instr := [.goOnline, .goListen, .goLoop, .goOffline, .clear]

/-- The rows of the resets and of the supply (R177, R200). -/
def supplyRows : List Instr := [.resetAsserted, .resetReleased, .powerUp]

/-- A row that writes a configuration register (R191, R192). -/
inductive Configures : Instr → Prop where
  | divh (v : Byte) : Configures (.divhWrite v)
  | hiwat (v : Byte) : Configures (.hiwatWrite v)
  | lowat (v : Byte) : Configures (.lowatWrite v)
  | rxtrig (v : Byte) : Configures (.rxtrigWrite v)
  | stale (v : Byte) : Configures (.staleWrite v)
  | other (o : BitVec 6) (v : Byte) : Configures (.registerWrite o v)

/-- What a row leaves standing: each setting, result and argument, unless the row is one of its own. -/
structure RowKeeps (c : Instr) (s t : State) : Prop where
  station : c ∉ stationRows → (∀ b, c ≠ .echoFault b) → t.sc.station = s.sc.station
  address : c ≠ .setAddress → t.sc.address = s.sc.address
  groups : c ≠ .join → c ≠ .leave → t.fr.groups = s.fr.groups
  cfg : ¬ Configures c → t.cfg = s.cfg
  results : c ∉ commandRows → (∀ code, c ≠ .unknownCommand code) →
    t.hp.cst = s.hp.cst ∧ t.hp.res = s.hp.res ∧ t.hp.cmd = s.hp.cmd
  args : (∀ o v, c ≠ .registerWrite o v) → t.hp.args = s.hp.args

theorem Stands.rowKeeps (h : Stands s t) (c : Instr) : RowKeeps c s t where
  station _ _ := h.station
  address _ := h.address
  groups _ _ := h.groups
  cfg _ := h.cfg
  results _ _ := ⟨h.cst, h.res, h.cmd⟩
  args _ := h.args

theorem rowKeeps_refl (c : Instr) (s : State) : RowKeeps c s s := (Stands.refl s).rowKeeps c

theorem rowKeeps_hostAccess {f : State → State} (hf : RowKeeps c s (f s)) (ht : hostAccess f s = .next t) :
    RowKeeps c s t := by
  unfold hostAccess at ht
  split at ht <;> cases ht
  · exact rowKeeps_refl c _
  · exact hf

theorem rowKeeps_command (k : HostCommand) (ht : exec (commandRow k) s = .next t) : RowKeeps (commandRow k) s t := by
  rw [exec_commandRow] at ht
  refine rowKeeps_hostAccess (f := fun u => commandBody k (recordCode (commandCode k) u)) ?_ ht
  exact {
    station := fun hk _ => commandBody_station (by cases k <;> simp [commandRow, stationRows] at hk ⊢) _
    address := fun hk => commandBody_address (by rintro rfl; exact hk rfl) _
    groups := fun hjoin hleave =>
      commandBody_groups (by rintro rfl; exact hjoin rfl) (by rintro rfl; exact hleave rfl) _
    cfg := fun _ => commandBody_cfg k _
    results := fun hk => absurd (mem_commandRows.mpr ⟨k, rfl⟩) hk
    args := fun _ => commandBody_args k _ }

/-- A code that names no command gives a result and nothing else (R190). -/
theorem rowKeeps_unknownCommand {code : Byte} (hwf : (Instr.unknownCommand code).wf = true)
    (ht : exec (.unknownCommand code) s = .next t) : RowKeeps (.unknownCommand code) s t := by
  have hnone : commandOf code = none := Option.isNone_iff_eq_none.mp hwf
  refine rowKeeps_hostAccess (f := writeCmd code) ?_ ht
  simp only [writeCmd, hnone]
  exact {
    station := fun _ _ => rfl
    address := fun _ => rfl
    groups := fun _ _ => rfl
    cfg := fun _ => rfl
    results := fun _ hk => absurd rfl (hk code)
    args := fun _ => rfl }

/-! ### Reads of registers, and the window -/

theorem stands_drive (v : Byte) (s : State) : Stands s (drive v s) := by constructor <;> rfl

theorem stands_stepWindow (s : State) : Stands s (stepWindow s) := by constructor <;> rfl

theorem stands_raiseWindowError (s : State) : Stands s (raiseWindowError s) := by constructor <;> rfl

theorem stands_raiseConfigError (s : State) : Stands s (raiseConfigError s) := by constructor <;> rfl

theorem stands_hostRead {f : State → State} (hf : Stands s (f s)) (ht : hostRead f s = .next t) : Stands s t := by
  unfold hostRead at ht
  split at ht <;> cases ht
  · exact stands_drive 0 _
  · exact hf

theorem stands_readWindata (ht : readWindata s = .next t) : Stands s t := by
  unfold readWindata at ht
  split at ht
  · cases ht
    exact ((stands_drive 0 s).trans (stands_raiseWindowError _)).trans (stands_stepWindow _)
  · split at ht <;> cases ht
    exact (stands_drive _ s).trans (stands_stepWindow _)

theorem stands_writeWindata {v : Byte} (ht : writeWindata v s = .next t) : Stands s t := by
  unfold writeWindata at ht
  split at ht
  · cases ht
    exact (stands_raiseWindowError s).trans (stands_stepWindow _)
  · split at ht <;> cases ht
    exact (stands_storeMessageByte (by assumption)).trans (stands_stepWindow _)

/-! ### Writes of registers -/

/-- The configuration registers (R191). -/
def Register.configures : Register → Bool
  | .divh | .hiwat | .lowat | .rxtrig | .stale | .retry | .reserve | .holdoff | .faultlim | .rxopt => true
  | _ => false

theorem stands_testMarks (s : State) : Stands s (testMarks s) :=
  stands_of_blocks (by simp) (by simp) (by simp) (by simp)

/-- A row of the configuration that changes nothing else of this. -/
theorem rowKeeps_of_cfg {cfg : Cfg} (hc : Configures c) (h : Stands { s with cfg := cfg } t) : RowKeeps c s t :=
  { h.rowKeeps c with cfg := fun hn => absurd hc hn }

/-- A configuration write that is refused raises CONFIG_ERROR alone. -/
theorem rowKeeps_ite_configError {p : Prop} [Decidable p] {cfg : Cfg} (hc : Configures c)
    (hu : Stands { s with cfg := cfg } u) : RowKeeps c s (if p then u else raiseConfigError s) := by
  split
  · exact rowKeeps_of_cfg hc hu
  · exact (stands_raiseConfigError s).rowKeeps c

/-- A write of a register but CMD, by a row that stands for the configuration register or the argument it writes. -/
theorem rowKeeps_writeRegister {r : Register} {v : Byte} (hcmd : r ≠ .cmd)
    (hcfg : Register.configures r = true → Configures c) (hargs : ∀ i, r = .arg i → ∃ o w, c = .registerWrite o w)
    (ht : writeRegister r v s = .next t) : RowKeeps c s t := by
  cases r with
  | cmd => exact absurd rfl hcmd
  | arg i =>
    cases ht
    obtain ⟨o, w, rfl⟩ := hargs i rfl
    exact { rowKeeps_refl _ s with args := fun hn => absurd rfl (hn o w) }
  | windata => exact (stands_writeWindata ht).rowKeeps c
  | winsel | winofs | cntsel =>
    cases ht
    refine Stands.rowKeeps ?_ c
    simp only [writeWinsel, writeWinofs, writeCntsel]
    split <;> constructor <;> rfl
  | hiwat | lowat =>
    cases ht
    exact rowKeeps_ite_configError (hcfg rfl) (stands_testMarks _)
  | rxtrig =>
    cases ht
    exact rowKeeps_ite_configError (hcfg rfl) (stands_of_blocks rfl rfl rfl rfl)
  | divh | stale | retry | reserve | holdoff | faultlim =>
    cases ht
    exact rowKeeps_ite_configError (hcfg rfl) (.refl _)
  | rxopt =>
    cases ht
    exact rowKeeps_of_cfg (hcfg rfl) (.refl _)
  | _ =>
    cases ht
    exact Stands.rowKeeps (by constructor <;> rfl) c

/-- A row of its own for the write of a register but CMD and the arguments. -/
theorem rowKeeps_ownWrite (r : Register) {v : Byte} {f : State → State} (hf : writeRegister r v s = .next (f s))
    (hown : Register.hasOwnWriteRow r = true) (hcmd : r ≠ .cmd) (hcfg : Register.configures r = true → Configures c)
    (ht : hostAccess f s = .next t) : RowKeeps c s t :=
  rowKeeps_hostAccess (rowKeeps_writeRegister hcmd hcfg (by rintro i rfl; cases hown) hf) ht

/-- REGISTER_WRITE names no register whose write has a row of its own, and so not CMD. -/
theorem rowKeeps_registerWrite {o : BitVec 6} {v : Byte} (hwf : (Instr.registerWrite o v).wf = true)
    (ht : exec (.registerWrite o v) s = .next t) : RowKeeps (.registerWrite o v) s t := by
  simp only [exec, execRegisterWrite] at ht
  split at ht
  · cases ht; exact rowKeeps_refl _ _
  · split at ht
    · cases ht; exact rowKeeps_refl _ _
    · next r hr =>
      refine rowKeeps_writeRegister ?_ (fun _ => .other o v) (fun _ _ => ⟨o, v, rfl⟩) ht
      rintro rfl
      simp [Instr.wf, isOtherWrite, hr, Register.hasOwnWriteRow] at hwf

/-! ### Every row -/

/-- An echo fault may lead to SILENT, and leaves the rest standing (R33, R169). -/
theorem rowKeeps_echoFault {k : Nat} (ht : exec (.echoFault k) s = .next t) : RowKeeps (.echoFault k) s t := by
  rcases exec_echoFault_cases ht with rfl | ⟨b, _, _, _, rfl⟩
  · exact rowKeeps_refl _ _
  · exact {
      station := fun _ hk => absurd rfl (hk k)
      address := fun _ => by simp
      groups := fun _ _ => by simp
      cfg := fun _ => by simp
      results := fun _ _ => by simp
      args := fun _ => by simp }

theorem rowKeeps_exec (hwf : c.wf = true) (hreset : c ∉ supplyRows) (ht : exec c s = .next t) : RowKeeps c s t := by
  by_cases hcommand : c ∈ commandRows
  · obtain ⟨k, rfl⟩ := mem_commandRows.mp hcommand
    exact rowKeeps_command k ht
  by_cases hline : movesLine c = true
  · by_cases hfault : ∃ k, c = .echoFault k
    · obtain ⟨k, rfl⟩ := hfault
      exact rowKeeps_echoFault ht
    · exact (stands_lineRow hline hreset (not_exists.mp hfault) ht).rowKeeps c
  cases c with
  | unknownCommand code => exact rowKeeps_unknownCommand hwf ht
  | stnRead | rxstatRead | flowRead | hstatRead | cntlRead =>
    exact (stands_hostRead (by constructor <;> rfl) ht).rowKeeps _
  | windataRead =>
    simp only [exec, execWindataRead] at ht
    split at ht
    · cases ht; exact (stands_drive 0 s).rowKeeps _
    · exact (stands_readWindata ht).rowKeeps _
  | windataWrite v =>
    simp only [exec, execWindataWrite] at ht
    split at ht
    · cases ht; exact rowKeeps_refl _ _
    · exact (stands_writeWindata ht).rowKeeps _
  | winselWrite v => exact rowKeeps_ownWrite .winsel rfl rfl nofun nofun ht
  | winofsWrite v => exact rowKeeps_ownWrite .winofs rfl rfl nofun nofun ht
  | cntselWrite v => exact rowKeeps_ownWrite .cntsel rfl rfl nofun nofun ht
  | intenWrite v => exact rowKeeps_ownWrite .inten rfl rfl nofun nofun ht
  | divlWrite v => exact rowKeeps_ownWrite .divl rfl rfl nofun nofun ht
  | divhWrite v => exact rowKeeps_ownWrite .divh rfl rfl nofun (fun _ => .divh v) ht
  | hiwatWrite v => exact rowKeeps_ownWrite .hiwat rfl rfl nofun (fun _ => .hiwat v) ht
  | lowatWrite v => exact rowKeeps_ownWrite .lowat rfl rfl nofun (fun _ => .lowat v) ht
  | rxtrigWrite v => exact rowKeeps_ownWrite .rxtrig rfl rfl nofun (fun _ => .rxtrig v) ht
  | staleWrite v => exact rowKeeps_ownWrite .stale rfl rfl nofun (fun _ => .stale v) ht
  | registerWrite o v => exact rowKeeps_registerWrite hwf ht
  | staleTimerExpiry =>
    rw [exec, execStaleTimerExpiry] at ht
    exact (stands_lineEvent ht (stands_of_blocks rfl rfl rfl rfl)).rowKeeps _
  | _ => simp [commandRows, movesLine] at hcommand hline

/-! ### The station state -/

/-- An echo fault at the limit takes the station from ONLINE to SILENT with the fault event; below it the station
stays (R34, R169). -/
theorem applyFaultLimit_station (s : State) :
    (applyFaultLimit s).sc = s.sc ∨
      ((applyFaultLimit s).sc.station = .silent ∧ (applyFaultLimit s).sc.faultEvent = true) := by
  unfold applyFaultLimit
  split
  · exact .inr ⟨by simp [enterSilent, leaveLine, setStation], rfl⟩
  · exact .inl rfl

theorem exec_echoFault_station {k : Nat} (ht : exec (.echoFault k) s = .next t) :
    t.sc.station = s.sc.station ∨
      (s.sc.station = .online ∧ t.sc.station = .silent ∧ t.sc.faultEvent = true) := by
  rcases exec_echoFault_cases ht with rfl | ⟨b, _, hst, _, rfl⟩
  · exact .inl rfl
  · obtain ⟨u, hu, hsc⟩ : ∃ u, takeEchoFault b k s = reevaluate (applyFaultLimit u) ∧ u.sc = s.sc :=
      ⟨_, rfl, by simp⟩
    have htaken : (takeEchoFault b k s).sc = (applyFaultLimit u).sc := by simp [hu]
    rw [htaken]
    exact (applyFaultLimit_station u).imp (fun hkept => by rw [hkept, hsc]) fun hsilent => ⟨hst, hsilent⟩

/-- Settles O16: a row that is none of these leaves the station state standing, and an echo fault does so or leads
from ONLINE to SILENT. -/
theorem onlyCommandsAndEchoFaultsMoveTheStation : Obligations.OnlyCommandsAndEchoFaultsMoveTheStation := by
  intro c s t hwf ht hc
  by_cases hfault : ∃ k, c = .echoFault k
  · obtain ⟨k, rfl⟩ := hfault
    exact (exec_echoFault_station ht).imp_right fun h => ⟨⟨k, rfl⟩, h⟩
  · have hrows : c ∉ stationRows ∧ c ∉ supplyRows := by simpa [stationRows, supplyRows, and_assoc] using hc
    exact .inl ((rowKeeps_exec hwf hrows.2 ht).station hrows.1 (not_exists.mp hfault))

/-- Settles O17: each part of what a row keeps. -/
theorem settingsAndResultsStand : Obligations.SettingsAndResultsStand := by
  refine ⟨fun c s t hwf ht hc => ?_, fun c s t hwf ht hc => ?_⟩
  · have h := rowKeeps_exec hwf hc ht
    refine ⟨h.address, h.groups, fun hdivh hhiwat hlowat hrxtrig hstale hother => h.cfg ?_⟩
    rintro (v | v | v | v | v | ⟨o, v⟩)
    · exact hdivh v rfl
    · exact hhiwat v rfl
    · exact hlowat v rfl
    · exact hrxtrig v rfl
    · exact hstale v rfl
    · exact hother o v rfl
  · have h := rowKeeps_exec hwf hc ht
    exact ⟨h.results, h.args⟩

end Sys2Proof.Machine
end

section
/-! SUPPORT. What a read of an offset returns while RESET# is high (R188): the number or the flags in each status, head
and result byte (11.2 to 11.4); and what the rows that read a register do beside it (R182, R183, R185, R190, R197). -/

namespace Sys2Proof.Machine

open Sys2Proof

variable {s : State}

/-! ### The byte of an offset -/

theorem toNat_byteOf {n : Nat} (h : n < 256) : (byteOf n).toNat = n :=
  (BitVec.toNat_ofNat n 8).trans (Nat.mod_eq_of_lt h)

theorem registerByte_of_high (hhigh : s.resetLow = false) (o : BitVec 6) {r : Register} (hr : registerAt o = some r) :
    registerByte s o = registerContents s r := by
  simp [registerByte, hhigh, hr]

/-! ### Status, result codes and the head (11.2 to 11.4) -/

theorem stnByte0_toNat (s : State) :
    (stnByte0 s).toNat = stationCode s.sc.station + if s.sc.faultEvent then 128 else 0 := by
  have hcode : stationCode s.sc.station ≤ 4 := by cases s.sc.station <;> decide
  rw [stnByte0, flagBit, mul_ite, mul_one, mul_zero]
  exact toNat_byteOf (by split <;> omega)

theorem stnByte1_of_none (h : s.sc.address = none) : stnByte1 s = 0 := by simp only [stnByte1, h]

theorem stnByte1_of_address {a : Nat} (h : s.sc.address = some a) (ha : a ≤ 47) : (stnByte1 s).toNat = 128 + a := by
  simp only [stnByte1, h]
  exact toNat_byteOf (by omega)

theorem head_of_empty (h : s.rq.entries = []) (i : Fin 6) : registerContents s (.head i) = 0 := by
  simp only [registerContents, h]

theorem head_of_entry {e : Entry} {rest : List Entry} (h : s.rq.entries = e :: rest) (i : Fin 6) :
    registerContents s (.head i) = headByte e i := by
  simp only [registerContents, h]

/-- The numbers in HEAD0 to HEAD4: no field reaches into the next (11.4). -/
theorem headByte_toNat {e : Entry} (hsrc : e.src ≤ 47) (hdest : e.dest ≤ 63) (hlength : e.length ≤ 240)
    (hdeclared : e.declared.getD 0 ≤ 240) :
    [0, 1, 2, 3, 4].map (fun i => (headByte e i).toNat) =
      [128 + e.src, 64 * destSortCode e.sort + e.dest, 16 * msgKindCode e.kind + e.cls.toNat, e.length,
        e.declared.getD 0] := by
  have hsort : destSortCode e.sort ≤ 3 := by cases e.sort <;> decide
  have hkind : msgKindCode e.kind ≤ 2 := by cases e.kind <;> decide
  have hcls : e.cls.toNat ≤ 3 := by cases e.cls <;> decide
  simp only [List.map, headByte, List.cons.injEq, and_true]
  exact ⟨toNat_byteOf (by omega), toNat_byteOf (by omega), toNat_byteOf (by omega), toNat_byteOf (by omega),
    toNat_byteOf (by omega)⟩

/-! ### The reads with a side effect -/

section
variable (hhigh : s.resetLow = false)
include hhigh

theorem hostRead_of_high (f : State → State) : hostRead f s = .next (f s) := by simp [hostRead, hhigh]

theorem exec_stnRead :
    exec .stnRead s = .next { s with
      sc := { s.sc with faultEvent := false }
      hp := { s.hp with dataOut := registerByte s 0x10 } } := by
  rw [exec, execStnRead, hostRead_of_high hhigh, registerByte_of_high hhigh 0x10 (r := .stn0) rfl]
  rfl

theorem exec_rxstatRead :
    exec .rxstatRead s = .next { s with
      rq := { s.rq with drop := false }
      hp := { s.hp with dataOut := registerByte s 0x13 } } := by
  rw [exec, execRxstatRead, hostRead_of_high hhigh, registerByte_of_high hhigh 0x13 (r := .rxstat1) rfl]
  rfl

theorem exec_flowRead :
    exec .flowRead s = .next { s with
      iu := { s.iu with flowEntered := false, flowLeft := false, flowBusy := false, flowReleased := false }
      hp := { s.hp with dataOut := registerByte s 0x0F } } := by
  rw [exec, execFlowRead, hostRead_of_high hhigh, registerByte_of_high hhigh 0x0F (r := .flow) rfl]
  rfl

theorem exec_hstatRead :
    exec .hstatRead s = .next { s with hp := { s.hp with
      windowError := false, configError := false, dataOut := registerByte s 0x0C } } := by
  rw [exec, execHstatRead, hostRead_of_high hhigh, registerByte_of_high hhigh 0x0C (r := .hstat) rfl]
  rfl

theorem exec_cntlRead :
    exec .cntlRead s = .next { s with hp := { s.hp with
      dataOut := (s.ctr.get s.hp.cntSel).extractLsb' 0 8, latch := s.ctr.get s.hp.cntSel } } := by
  rw [exec, execCntlRead, hostRead_of_high hhigh]
  rfl

end

/-- Settles O38: each read by its row, and each byte by its register. -/
theorem readsWithASideEffect : Obligations.ReadsWithASideEffect := by
  refine ⟨fun s hhigh => ?_, fun s hhigh => ?_, fun s bits hhigh hbits => ?_⟩
  · exact ⟨⟨_, exec_stnRead hhigh, rfl, rfl⟩, ⟨_, exec_rxstatRead hhigh, rfl, rfl⟩, ⟨_, exec_flowRead hhigh, rfl, rfl⟩,
      exec_hstatRead hhigh⟩
  · exact ⟨_, exec_cntlRead hhigh, rfl, registerByte_of_high hhigh 0x31 (r := .cntl) rfl,
      fun k => registerByte_of_high (by simpa using hhigh) 0x32 (r := .cnth) rfl⟩
  · have hread (o : BitVec 6) {r : Register} (hr : registerAt o = some r) : registerByte s o = registerContents s r :=
      registerByte_of_high hhigh o hr
    have hflags (o : BitVec 6) {r : Register} (hr : registerAt o = some r) :
        bits o = (List.range 8).map fun i => (registerContents s r).getLsbD i := by
      rw [hbits, hread o hr]
    refine ⟨?stn0, fun hnone => ?stn1None, fun a haddress ha => ?stn1, fun hlevel => ?rxstat0, ?rxstat1, ?flow, ?hstat,
      fun hfree => ?freecnt, hread 0x02 (r := .cmd) rfl, ?cst, ?args, ?res, fun hempty => ?headEmpty,
      fun e rest hentries hsrc hdest hlength hdeclared => ⟨?head, ?tags⟩⟩
    case stn0 => rw [hread 0x10 (r := .stn0) rfl]; exact stnByte0_toNat s
    case stn1None => rw [hread 0x11 (r := .stn1) rfl]; exact stnByte1_of_none hnone
    case stn1 => rw [hread 0x11 (r := .stn1) rfl]; exact stnByte1_of_address haddress ha
    case rxstat0 => rw [hread 0x12 (r := .rxstat0) rfl]; exact toNat_byteOf (by rw [level]; omega)
    case rxstat1 => rw [hflags 0x13 (r := .rxstat1) rfl]; exact packFlags_bits ..
    case flow => rw [hflags 0x0F (r := .flow) rfl]; exact packFlags_bits ..
    case hstat => rw [hflags 0x0C (r := .hstat) rfl]; exact packFlags_bits ..
    case freecnt => rw [hread 0x1A (r := .freecnt) rfl]; exact toNat_byteOf (by rw [freeCount]; omega)
    case cst => rw [hread 0x03 (r := .cst) rfl, registerContents]; cases s.hp.cst <;> rfl
    case args =>
      simp only [List.map, hread 0x04 (r := .arg 0) rfl, hread 0x05 (r := .arg 1) rfl, hread 0x06 (r := .arg 2) rfl,
        hread 0x07 (r := .arg 3) rfl]
      rfl
    case res =>
      simp only [List.map, hread 0x08 (r := .res 0) rfl, hread 0x09 (r := .res 1) rfl, hread 0x0A (r := .res 2) rfl,
        hread 0x0B (r := .res 3) rfl]
      rfl
    case headEmpty =>
      simp only [List.map, hread 0x14 (r := .head 0) rfl, hread 0x15 (r := .head 1) rfl, hread 0x16 (r := .head 2) rfl,
        hread 0x17 (r := .head 3) rfl, hread 0x18 (r := .head 4) rfl, hread 0x19 (r := .head 5) rfl,
        head_of_empty hempty]
    case head =>
      simp only [List.map, hread 0x14 (r := .head 0) rfl, hread 0x15 (r := .head 1) rfl, hread 0x16 (r := .head 2) rfl,
        hread 0x17 (r := .head 3) rfl, hread 0x18 (r := .head 4) rfl, head_of_entry hentries]
      exact headByte_toNat hsrc hdest hlength hdeclared
    case tags =>
      rw [hflags 0x19 (r := .head 5) rfl, head_of_entry hentries]
      exact packFlags_bits ..

end Sys2Proof.Machine
end

section
/-! SUPPORT. The interrupts (R178 to R181): the causes that are pending and enabled, the one that INTID names, and INT#.
-/

namespace Sys2Proof.Machine

open Sys2Proof

variable {s : State} {k : Cause}

/-! ### The order of priority -/

theorem byPriority_getElem? (k : Cause) : Cause.byPriority[k.priority - 1]? = some k := by cases k <;> rfl

theorem mem_byPriority (k : Cause) : k ∈ Cause.byPriority := List.mem_of_getElem? (byPriority_getElem? k)

theorem byPriority_ascends : Cause.byPriority.Pairwise fun j k => j.priority < k.priority := by decide

theorem priority_bounds (k : Cause) : 1 ≤ k.priority ∧ k.priority ≤ 6 := by cases k <;> decide

theorem priority_injective : Function.Injective Cause.priority := by
  intro j k h
  rw [← Option.some_inj, ← byPriority_getElem? j, ← byPriority_getElem? k, h]

/-! ### Pending and enabled -/

/-- The cause is pending and its enable is set, so that INTID can name it (R180). -/
def causeLive (s : State) (k : Cause) : Bool := causePending s k && causeEnabled s k

/-- The cause that INTID names is live, and no cause before it in the order of priority is (R180). -/
theorem live_of_namedCause (h : namedCause s = some k) :
    causeLive s k = true ∧ ∀ j : Cause, j.priority < k.priority → causeLive s j = false := by
  obtain ⟨hlive, before, behind, hsplit, hbefore⟩ := List.find?_eq_some_iff_append.mp h
  refine ⟨hlive, fun j hj => ?_⟩
  obtain ⟨-, hbehind, -⟩ := List.pairwise_append.mp (hsplit ▸ byPriority_ascends)
  have hj' := mem_byPriority j
  rw [hsplit, List.mem_append, List.mem_cons] at hj'
  rcases hj' with hj' | rfl | hj'
  · exact (Bool.not_eq_true' _).mp (hbefore j hj')
  · exact absurd hj (lt_irrefl _)
  · exact absurd ((List.pairwise_cons.mp hbehind).1 j hj') (lt_asymm hj)

theorem namedCause_ne_none_iff : namedCause s ≠ none ↔ ∃ k, causeLive s k = true := by
  rw [Ne, namedCause, List.find?_eq_none]
  simp [mem_byPriority, causeLive]

/-! ### INTID, INT# and INTEN -/

section
variable (hhigh : s.resetLow = false)
include hhigh

/-- INT# is asserted exactly while some cause is live (R181). -/
theorem intAsserted_iff_live : intAsserted s = true ↔ ∃ k, causeLive s k = true := by
  simp [intAsserted, hhigh, mem_byPriority, causeLive]

/-- INTID reads the number of the cause that it names, or 0 where it names none (R180, 11.2). -/
theorem intid_toNat : (registerByte s 0x0D).toNat = ((namedCause s).map Cause.priority).getD 0 := by
  rw [registerByte_of_high hhigh 0x0D (r := .intid) rfl]
  simp only [registerContents]
  cases namedCause s with
  | none => rfl
  | some k =>
    obtain ⟨-, hk⟩ := priority_bounds k
    exact toNat_byteOf (by omega)

theorem intid_eq_priority_iff : (registerByte s 0x0D).toNat = k.priority ↔ namedCause s = some k := by
  rw [intid_toNat hhigh]
  obtain ⟨hk, -⟩ := priority_bounds k
  cases namedCause s with
  | none => simp only [Option.map_none, Option.getD_none, reduceCtorEq, iff_false]; omega
  | some j => simp [priority_injective.eq_iff]

/-- INTID names a cause exactly where one is live (R180). -/
theorem intid_ne_zero_iff_live : registerByte s 0x0D ≠ 0 ↔ ∃ k, causeLive s k = true := by
  rw [← namedCause_ne_none_iff, Ne, ← BitVec.toNat_inj, intid_toNat hhigh]
  cases namedCause s with
  | none => simp
  | some j =>
    obtain ⟨hj, -⟩ := priority_bounds j
    have hzero : j.priority ≠ 0 := by omega
    simpa using hzero

theorem exec_intenWrite (v : Byte) : exec (.intenWrite v) s = .next (writeInten v s) := by
  rw [exec, execIntenWrite, hostAccess_of_high _ hhigh]

/-- INTEN reads its six enables, with 0 in the two bits that are not stored (R201). -/
theorem inten_writeInten (v : Byte) : registerByte (writeInten v s) 0x0E = v &&& 0x3F := by
  rw [registerByte_of_high (s := writeInten v s) hhigh 0x0E (r := .inten) rfl]
  have hstored : (registerContents (writeInten v s) .inten).toNat = v.toNat % 64 := by
    have hsmall : v.toNat % 64 < 256 := by omega
    simpa [registerContents, writeInten] using hsmall
  have hmask : (v &&& 0x3F).toNat = v.toNat % 64 := Nat.and_two_pow_sub_one_eq_mod v.toNat 6
  exact BitVec.eq_of_toNat_eq (hstored.trans hmask.symm)

end

/-- Each of the six enables is the bit of the byte written (R179, R201). -/
theorem causeEnabled_writeInten (v : Byte) (s : State) (k : Cause) :
    causeEnabled (writeInten v s) k = v.getLsbD (k.priority - 1) := by
  obtain ⟨-, hk⟩ := priority_bounds k
  have henable : k.priority - 1 < 6 := by omega
  simp [causeEnabled, writeInten, henable]

theorem causeLive_writeInten_iff {v : Byte} :
    causeLive (writeInten v s) k = true ↔
      causePending (writeInten v s) k = true ∧ v.getLsbD (k.priority - 1) = true := by
  rw [causeLive, Bool.and_eq_true, causeEnabled_writeInten]

/-- Settles O42: the causes one by one, then INTID and INT# by the causes that are live after the write. -/
theorem interruptEnablesAndIdentification : Obligations.InterruptEnablesAndIdentification := by
  refine ⟨fun s => ⟨rfl, rfl, decide_eq_true_iff, rfl, ?_, ?_⟩, fun s v hhigh => ?_⟩
  · simp [causePending]
  · simp [causePending, or_assoc]
  · have hhigh' : (writeInten v s).resetLow = false := hhigh
    refine ⟨_, exec_intenWrite hhigh v, rfl, inten_writeInten hhigh v,
      (intAsserted_iff_live hhigh').trans (intid_ne_zero_iff_live hhigh').symm,
      (intid_ne_zero_iff_live hhigh').trans (exists_congr fun _ => causeLive_writeInten_iff), fun k hk => ?_⟩
    obtain ⟨hlive, hfirst⟩ := live_of_namedCause ((intid_eq_priority_iff hhigh').mp hk)
    obtain ⟨hpending, henabled⟩ := causeLive_writeInten_iff.mp hlive
    refine ⟨hpending, henabled, fun j hj => ?_⟩
    have hidle := hfirst j hj
    rwa [causeLive, causeEnabled_writeInten, Bool.and_eq_false_iff] at hidle

end Sys2Proof.Machine
end

section
/-! SUPPORT. The rows that write a register, each with the register that it writes (R188, R190); and the range of the
configuration (R191, R125, R192), which every such write keeps, and so does every step. -/

namespace Sys2Proof.Machine

open Sys2Proof

variable {s t : State} {c : Instr} {r : Register} {v : Byte}

/-! ### The register that a row writes -/

/-- The register and the byte of a row that writes one; an unknown command is a write of CMD (R190). -/
def writtenRegister : Instr → Option (Register × Byte)
  | .unknownCommand code => some (.cmd, code)
  | .windataWrite v => some (.windata, v)
  | .winselWrite v => some (.winsel, v)
  | .winofsWrite v => some (.winofs, v)
  | .cntselWrite v => some (.cntsel, v)
  | .intenWrite v => some (.inten, v)
  | .divlWrite v => some (.divl, v)
  | .divhWrite v => some (.divh, v)
  | .hiwatWrite v => some (.hiwat, v)
  | .lowatWrite v => some (.lowat, v)
  | .rxtrigWrite v => some (.rxtrig, v)
  | .staleWrite v => some (.stale, v)
  | .registerWrite offset v => (registerAt offset).map fun r => (r, v)
  | _ => none

theorem hostAccess_cases {f : State → State} (ht : hostAccess f s = .next t) : t = s ∨ t = f s := by
  unfold hostAccess at ht
  split at ht <;> cases ht
  · exact .inl rfl
  · exact .inr rfl

/-- A row that writes a register does what the write does, or nothing while RESET# is low. -/
theorem exec_write_cases (hc : writtenRegister c = some (r, v)) (ht : exec c s = .next t) :
    t = s ∨ writeRegister r v s = .next t := by
  have haccess {f : State → State} (hf : writeRegister r v s = .next (f s)) (h : hostAccess f s = .next t) :
      t = s ∨ writeRegister r v s = .next t := by
    rcases hostAccess_cases h with rfl | rfl
    · exact .inl rfl
    · exact .inr hf
  cases c with
  | windataWrite =>
    cases hc
    rw [exec, execWindataWrite] at ht
    split at ht
    · cases ht; exact .inl rfl
    · exact .inr ht
  | registerWrite offset w =>
    obtain ⟨r, hr, hrv⟩ := Option.map_eq_some_iff.mp hc
    cases hrv
    simp only [exec, execRegisterWrite, hr] at ht
    split at ht
    · cases ht; exact .inl rfl
    · exact .inr ht
  | unknownCommand | winselWrite | winofsWrite | cntselWrite | intenWrite | divlWrite | divhWrite | hiwatWrite
  | lowatWrite | rxtrigWrite | staleWrite => cases hc; exact haccess rfl ht
  | _ => cases hc

/-- An offset without a register ignores a write (R188). -/
theorem exec_registerWrite_of_no_register {offset : BitVec 6} (hr : registerAt offset = none) (v : Byte) (s : State) :
    exec (.registerWrite offset v) s = .next s := by
  simp only [exec, execRegisterWrite, hr]
  split <;> rfl

/-! ### The range of the configuration -/

/-- The law looks at the configuration alone. -/
theorem ConfigLaw.of_cfg (h : ConfigLaw s) (hcfg : t.cfg = s.cfg) : ConfigLaw t := by rwa [ConfigLaw, hcfg]

theorem configLaw_of_reset (hcfg : s.cfg = .reset) : ConfigLaw s := by
  rw [ConfigLaw, hcfg]
  decide

/-- A write that its test refuses raises CONFIG_ERROR and leaves the configuration. -/
theorem configLaw_ite_configError {p : Prop} [Decidable p] {u : State} (h : ConfigLaw s) (hu : p → ConfigLaw u) :
    ConfigLaw (if p then u else raiseConfigError s) := by
  split
  · next hp => exact hu hp
  · exact h.of_cfg rfl

theorem writeCmd_cfg (code : Byte) (s : State) : (writeCmd code s).cfg = s.cfg := by
  unfold writeCmd
  split
  · rfl
  · exact commandBody_cfg _ _

/-- The test of each write is the range of its register (R191, R125, R192). -/
theorem configLaw_writeRegister (h : ConfigLaw s) (ht : writeRegister r v s = .next t) : ConfigLaw t := by
  have hbyte := v.isLt
  cases r with
  | cmd => cases ht; exact h.of_cfg (writeCmd_cfg v s)
  | windata => exact h.of_cfg (stands_writeWindata ht).cfg
  | winsel | winofs | cntsel =>
    cases ht
    refine h.of_cfg ?_
    simp only [writeWinsel, writeWinofs, writeCntsel]
    split <;> rfl
  | divh | rxtrig | stale | retry | reserve | holdoff | faultlim =>
    cases ht
    refine configLaw_ite_configError h fun htest => ?_
    simp only [ConfigLaw, judgeStale] at h ⊢
    omega
  | hiwat | lowat =>
    cases ht
    refine configLaw_ite_configError h fun htest => ?_
    simp only [ConfigLaw, testMarks_keeps] at h ⊢
    omega
  | rxopt => cases ht; exact h
  | _ => cases ht; exact h.of_cfg rfl

/-- A row that writes no register and is none of the resets leaves the configuration standing. -/
theorem exec_cfg_of_no_write (hwrites : writtenRegister c = none) (hreset : c ∉ supplyRows)
    (ht : exec c s = .next t) : t.cfg = s.cfg := by
  cases c with
  | registerWrite offset v =>
    have hr : registerAt offset = none := by simpa [writtenRegister] using hwrites
    rw [exec_registerWrite_of_no_register hr] at ht
    cases ht
    rfl
  | unknownCommand | windataWrite | winselWrite | winofsWrite | cntselWrite | intenWrite | divlWrite | divhWrite
  | hiwatWrite | lowatWrite | rxtrigWrite | staleWrite => cases hwrites
  | echoFault => exact (rowKeeps_echoFault ht).cfg nofun
  | holdoffExpiry => exact (stands_lineRow rfl hreset nofun ht).cfg
  | _ => exact (rowKeeps_exec rfl hreset ht).cfg nofun

theorem configLaw_exec (h : ConfigLaw s) (ht : exec c s = .next t) : ConfigLaw t := by
  cases hwrites : writtenRegister c with
  | some written =>
    rcases exec_write_cases hwrites ht with rfl | hw
    · exact h
    · exact configLaw_writeRegister h hw
  | none =>
    by_cases hreset : c ∈ supplyRows
    · refine configLaw_of_reset ?_
      cases c with
      | resetAsserted | resetReleased | powerUp => cases ht; rfl
      | _ => simp [supplyRows] at hreset
    · exact h.of_cfg (exec_cfg_of_no_write hwrites hreset ht)

theorem idle_cfg (s : State) : (idle s).cfg = s.cfg := by
  unfold idle bitTime tickLine
  split
  · split
    · rfl
    · dsimp only
      split
      · rfl
      · split <;> rfl
  · rfl

theorem configLaw_step (h : ConfigLaw s) (ht : step s = .next t) : ConfigLaw t := by
  unfold step at ht
  split at ht
  · cases ht; exact h.of_cfg (idle_cfg s)
  · next c rest _ => exact configLaw_exec (s := { s with pending := rest }) h ht

/-- Settles O11: a write takes a value only in its range, and nothing but a write and the resets touches the
configuration. -/
theorem configurationStaysInRange : Obligations.ConfigurationStaysInRange := fun _ _ => configLaw_step

end Sys2Proof.Machine
end

section
/-! SUPPORT. The event counters (10.5, R198): an event adds to its counter or finds it at its stop, and every other
operation leaves the counters standing; so no counter falls. -/

namespace Sys2Proof.Machine

open Sys2Proof

/-- No counter of `t` stands below its value in `s`. -/
def CountersGrow (s t : State) : Prop := ∀ k, (s.ctr.get k).toNat ≤ (t.ctr.get k).toNat

variable {s t u : State} {b : Byte} {r : Rx} {c : Instr}

theorem CountersGrow.refl (s : State) : CountersGrow s s := fun _ => Nat.le_refl _

theorem CountersGrow.trans (h : CountersGrow s t) (k : CountersGrow t u) : CountersGrow s u :=
  fun j => Nat.le_trans (h j) (k j)

theorem CountersGrow.of_ctr (h : CountersGrow s t) (hctr : u.ctr = t.ctr) : CountersGrow s u := by
  rwa [CountersGrow, hctr]

theorem countersGrow_of_ctr (hctr : t.ctr = s.ctr) : CountersGrow s t := (CountersGrow.refl s).of_ctr hctr

/-- A counter adds 1, and stops at 65535 (10.5). -/
theorem toNat_le_bump (w : Word) : w.toNat ≤ (bump w).toNat := by
  unfold bump
  split
  · exact Nat.le_refl _
  · next hstop =>
    have hbelow : w.toNat ≠ 65535 := fun h => hstop (BitVec.eq_of_toNat_eq h)
    have hword := w.isLt
    rw [BitVec.toNat_add_of_lt (by bv_omega)]
    exact Nat.le_add_right _ _

/-- An event counts in its own counter alone. -/
theorem Counters.count_get (k j : Counter) (ctr : Counters) :
    (ctr.count k).get j = if j = k then bump (ctr.get j) else ctr.get j := by
  cases k <;> cases j <;> rfl

theorem countersGrow_countEvent (k : Counter) (s : State) : CountersGrow s (countEvent k s) := fun j => by
  rw [countEvent_ctr, Counters.count_get]
  split
  · exact toNat_le_bump _
  · exact Nat.le_refl _

/-- What follows an event without touching the counters. -/
theorem CountersGrow.counted (h : CountersGrow s t) {k : Counter} (hctr : u.ctr = t.ctr.count k) : CountersGrow s u :=
  (h.trans (countersGrow_countEvent k t)).of_ctr hctr

/-! ### The end of a reception -/

@[simp] theorem reportLoss_ctr (s : State) : (reportLoss s).ctr = s.ctr.count .dropped := rfl

theorem countersGrow_decideRow (p : Peer) (r : Rx) (s : State) : CountersGrow s (decideRow p r s) := by
  unfold decideRow
  split
  · exact (CountersGrow.refl s).counted (k := .duplicate) (by simp)
  split
  · exact countersGrow_of_ctr (by simp)
  split
  · exact countersGrow_of_ctr (by simp)
  split
  · exact (CountersGrow.refl s).counted (k := .dropped) (by simp)
  · exact countersGrow_of_ctr (by simp)

theorem countersGrow_decideData (r : Rx) (s : State) : CountersGrow s (decideData r s) := by
  unfold decideData
  split
  · exact countersGrow_decideRow _ r { s with pt := touchPeer r.src s.pt }
  · split
    · exact countersGrow_of_ctr (by simp)
    · next room _ =>
      have hrow := countersGrow_decideRow (newPeer r.src) r { s with pt := newPeer r.src :: room }
      exact hrow.of_ctr (by simp)

theorem countersGrow_queueGood (r : Rx) (sort : DestSort) (s : State) : CountersGrow s (queueGood r sort s) := by
  unfold queueGood
  split
  · exact countersGrow_of_ctr (by simp)
  · exact (CountersGrow.refl s).counted (k := .dropped) (by simp)

theorem countersGrow_dealGood (r : Rx) (s : State) : CountersGrow s (dealGood r s) := by
  have hreceived := countersGrow_countEvent .received s
  unfold dealGood
  split
  · exact .refl s
  · exact .refl s
  · exact countersGrow_of_ctr (by simp)
  · split
    · exact countersGrow_of_ctr (by simp)
    · dsimp only
      split
      · exact hreceived.trans (countersGrow_decideData r _)
      · exact hreceived.trans (countersGrow_queueGood r _ _)
  · split
    · exact countersGrow_of_ctr (by simp)
    · exact hreceived.trans (countersGrow_queueGood r _ _)

theorem countersGrow_dealDamaged (how : Ending) (mode : FrMode) (r : Rx) (s : State) :
    CountersGrow s (dealDamaged how mode r s) := by
  refine (CountersGrow.refl s).counted (k := .damaged) ?_
  unfold dealDamaged
  dsimp only
  split
  · split <;> simp
  · simp

theorem countersGrow_endReception (how : Ending) (s : State) : CountersGrow s (endReception how s) :=
  endReception_stages (P := CountersGrow s) (.refl s) (countersGrow_of_ctr (by simp)) (fun _ _ h => h.of_ctr (by simp))
    (fun r u h => h.trans (countersGrow_dealGood r u)) (fun m r u h => h.trans (countersGrow_dealDamaged _ m r u))
    fun _ h => h.of_ctr (by simp)

/-! ### Marks of the quiet count, and start bits -/

theorem closeAtDeadline_ctr (s : State) : (closeAtDeadline s).ctr = s.ctr := by
  unfold closeAtDeadline
  split
  · rfl
  · simp

theorem countersGrow_takeMarks (s : State) : CountersGrow s (takeMarks s) :=
  takeMarks_stages (P := CountersGrow s) (.refl s) (fun _ _ h => h.of_ctr rfl)
    (fun u h _ => h.trans (countersGrow_endReception _ u)) (fun u h _ => h.of_ctr (closeAtDeadline_ctr u))
    fun _ h => h.of_ctr rfl

theorem countersGrow_takeStartBit (s : State) : CountersGrow s (takeStartBit s) := by
  unfold takeStartBit
  split
  · split
    · exact (CountersGrow.refl s).counted (k := .stray) (by simp [takeStray])
    · exact countersGrow_of_ctr (by simp)
  all_goals exact countersGrow_of_ctr rfl

/-! ### A character -/

theorem countersGrow_takeFourth (b : Byte) (r : Rx) (s : State) : CountersGrow s (takeFourth b r s) := by
  unfold takeFourth
  split
  · exact countersGrow_of_ctr rfl
  · exact countersGrow_of_ctr rfl
  · split
    · exact countersGrow_endReception _ s
    · exact countersGrow_of_ctr rfl
  all_goals
    split
    · exact countersGrow_endReception _ s
    · dsimp only
      split <;> exact countersGrow_of_ctr (by simp)

/-- A header character sets its field or makes the header malformed (R100). -/
theorem countersGrow_takeHeader (b : Byte) (r : Rx) (s : State) : CountersGrow s (takeHeader b r s) := by
  unfold takeHeader takeLead takeControl takeDest
  dsimp only
  split
  · split
    · exact countersGrow_endReception _ s
    · exact countersGrow_of_ctr rfl
  · split
    · exact countersGrow_endReception _ s
    · exact countersGrow_of_ctr rfl
  · split
    · exact countersGrow_of_ctr rfl
    · exact countersGrow_endReception _ s
  · exact countersGrow_takeFourth b r s

theorem bodyDone_ctr (r : Rx) (s : State) : (bodyDone r s).ctr = s.ctr := by
  unfold bodyDone
  split <;> rfl

theorem takeBody_ctr (ht : takeBody b r s = some t) : t.ctr = s.ctr := by
  unfold takeBody at ht
  split at ht
  · cases ht; exact bodyDone_ctr ..
  · split at ht
    · obtain ⟨u, hu, rfl⟩ := Option.map_eq_some_iff.mp ht
      obtain ⟨a, _, rfl⟩ := storeMessageByte_eq.mp hu
      exact bodyDone_ctr ..
    · cases ht; exact bodyDone_ctr ..

theorem countersGrow_takeCheck (b : Byte) (r : Rx) (s : State) : CountersGrow s (takeCheck b r s) := by
  obtain ⟨first, hfirst⟩ : ∃ first, takeCheck b r s =
      if r.count ≤ first then setRecord { r with checkHigh := b } s
      else endReception (if checkChars r.crc = [r.checkHigh, b] then .good else .badCheck) s := ⟨_, rfl⟩
  rw [hfirst]
  split
  · exact countersGrow_of_ctr rfl
  · exact countersGrow_endReception _ s

theorem countersGrow_setRecord (r : Rx) (s : State) : CountersGrow s (setRecord r s) := countersGrow_of_ctr rfl

theorem countersGrow_takeComplete (ht : takeComplete b r s = some t) : CountersGrow s t := by
  unfold takeComplete at ht
  dsimp only at ht
  split at ht
  · cases ht; exact (countersGrow_setRecord _ s).trans (countersGrow_takeHeader _ _ _)
  · exact (countersGrow_setRecord _ s).of_ctr (takeBody_ctr ht)
  · cases ht; exact (countersGrow_setRecord _ s).trans (countersGrow_takeCheck _ _ _)
  · cases ht; exact .refl _

theorem countersGrow_takeCharacter {stop : LineBit} (ht : takeCharacter b stop r s = some t) : CountersGrow s t := by
  have hquiet (q : Nat) : CountersGrow s { s with lac := { s.lac with quiet := q } } := countersGrow_of_ctr rfl
  unfold takeCharacter at ht
  split at ht
  · cases ht; exact (hquiet _).trans (countersGrow_endReception _ _)
  · exact (hquiet _).trans (countersGrow_takeComplete ht)

theorem countersGrow_arrivingCharacter {v d : Byte} {stop st : LineBit}
    (ha : arrivingCharacter v stop s = some (d, st, u)) : CountersGrow s u := by
  unfold arrivingCharacter at ha
  split at ha
  · cases ha
  · split at ha <;> cases ha
    exact countersGrow_of_ctr rfl
  · split at ha <;> cases ha
    split
    · exact .refl s
    · exact countersGrow_takeMarks s

theorem countersGrow_characterReceived {v : Byte} {stop : LineBit} (ht : exec (.characterReceived v stop) s = .next t) :
    CountersGrow s t := by
  simp only [exec, execCharacterReceived] at ht
  split at ht
  · cases ht; exact .refl _
  split at ht
  · cases ht; exact .refl _
  next d st u harrives =>
    have hu : CountersGrow s u := countersGrow_arrivingCharacter harrives
    split at ht
    · split at ht <;> cases ht
      exact hu.trans (countersGrow_takeCharacter (by assumption))
    · split at ht <;> cases ht
      · exact hu.of_ctr rfl
      · exact .refl _

/-! ### The rows of the line -/

theorem countersGrow_lineEvent {holds : Bool} {f : State → State} (ht : lineEvent holds f s = .next t)
    (hf : CountersGrow s (f s)) : CountersGrow s t := by
  rcases lineEvent_cases ht with rfl | ⟨_, _, rfl⟩
  · exact .refl _
  · exact hf

/-- The rows of the line count their event, or leave the counters standing (R29, R32, R33, R38, R95). -/
theorem countersGrow_lineRow (hc : movesLine c = true) (hreset : c ∉ supplyRows) (ht : exec c s = .next t) :
    CountersGrow s t := by
  cases c with
  | resetAsserted | resetReleased | powerUp => simp [supplyRows] at hreset
  | startBit =>
    rw [exec, execStartBit] at ht
    exact countersGrow_lineEvent ht ((countersGrow_takeMarks s).trans (countersGrow_takeStartBit _))
  | characterReceived v stop => exact countersGrow_characterReceived ht
  | gapGuardClear | gapLimitRecover => exact countersGrow_lineEvent ht (countersGrow_of_ctr rfl)
  | gapLimitTruncation =>
    rw [exec, execGapLimitTruncation] at ht
    exact countersGrow_lineEvent ht (countersGrow_endReception _ (reachQuiet Config.gapLimit s))
  | demotionClear c =>
    rw [exec, execDemotionClear] at ht
    exact countersGrow_lineEvent ht (countersGrow_of_ctr rfl)
  | leadStart =>
    rcases exec_leadStart_cases ht with rfl | ⟨o, chars, _, _, _, rfl⟩
    · exact .refl _
    · exact countersGrow_of_ctr (by simp)
  | contentionLost k =>
    rcases exec_contentionLost_cases ht with rfl | ⟨burst, _, _, _, rfl⟩
    · exact .refl _
    · exact (CountersGrow.refl s).counted (k := .lostContention) (by simp [loseLead])
  | leadWon =>
    rcases exec_leadWon_cases ht with rfl | ⟨burst, _, _, rfl⟩
    · exact .refl _
    · exact countersGrow_of_ctr rfl
  | echoFault k =>
    rcases exec_echoFault_cases ht with rfl | ⟨burst, _, _, _, rfl⟩
    · exact .refl _
    · exact (CountersGrow.refl s).counted (k := .echoFault) (by simp [takeEchoFault])
  | frameSent =>
    rcases exec_frameSent_cases ht with rfl | ⟨burst, _, _, rfl⟩
    · exact .refl _
    · exact (CountersGrow.refl s).counted (k := .sent) (by simp [takeFrameEnd])
  | responseStart =>
    rcases exec_responseStart_cases ht with rfl | ⟨chars, u, _, _, rfl, rfl⟩
    · exact .refl _
    · exact (countersGrow_takeMarks (reachQuiet Config.responseGap s)).of_ctr (by simp)
  | responseSent =>
    rcases exec_responseSent_cases ht with rfl | ⟨burst, _, _, rfl⟩
    · exact .refl _
    · exact (CountersGrow.refl s).counted (k := .sent) (by simp [takeFrameEnd])
  | noResponse =>
    rcases exec_noResponse_cases ht with rfl | ⟨_, rfl⟩
    · exact .refl _
    · exact countersGrow_of_ctr (closeAtDeadline_ctr _)
  | holdoffExpiry node => exact countersGrow_lineEvent ht (countersGrow_of_ctr (by simp))
  | dominantBitInRecover =>
    rw [exec, execDominantBitInRecover] at ht
    exact countersGrow_lineEvent ht ((countersGrow_takeMarks s).of_ctr rfl)
  | _ => simp [movesLine] at hc

/-! ### The rows of the host port -/

/-- The cut of a frame in LOOP is a truncation, which FR counts (R113). -/
theorem countersGrow_cutByAbort (s : State) : CountersGrow s (cutByAbort s) := by
  unfold cutByAbort
  dsimp only
  split
  · exact .refl s
  split
  · have hcut : CountersGrow s (stopBurst .quiet { s with lac := { s.lac with path := [] } }) :=
      countersGrow_of_ctr rfl
    exact (hcut.trans (countersGrow_endReception .truncated _)).of_ctr rfl
  · exact countersGrow_of_ctr (by simp)

theorem countersGrow_abortSlot (n : SlotId) (sl : Slot) (s : State) : CountersGrow s (abortSlot n sl s) := by
  unfold abortSlot
  split
  case h_4 => exact (countersGrow_cutByAbort s).of_ctr (by simp)
  all_goals exact countersGrow_of_ctr (by simp)

/-- No command but CLEAR_COUNTERS sets a counter, and ABORT alone may count one (R198, R113). -/
theorem countersGrow_commandBody {k : HostCommand} (hk : k ≠ .clearCounters) (s : State) :
    CountersGrow s (commandBody k s) := by
  cases k with
  | clearCounters => exact absurd rfl hk
  | abort =>
    simp only [commandBody, abortBody]
    split
    · exact countersGrow_of_ctr rfl
    split
    · exact countersGrow_of_ctr rfl
    · exact countersGrow_abortSlot _ _ s
  | _ => exact countersGrow_of_ctr (by simp [commandBody, clearBody])

theorem countersGrow_command {k : HostCommand} (hk : k ≠ .clearCounters) (ht : exec (commandRow k) s = .next t) :
    CountersGrow s t := by
  rw [exec_commandRow] at ht
  rcases hostAccess_cases ht with rfl | rfl
  · exact .refl _
  · exact countersGrow_commandBody hk (recordCode (commandCode k) s)

theorem PortOnly.ctr (h : PortOnly s t) : t.ctr = s.ctr := by rw [h]

/-- A write of a register but CMD touches no counter. -/
theorem writeRegister_ctr {r : Register} {v : Byte} (hcmd : r ≠ .cmd) (ht : writeRegister r v s = .next t) :
    t.ctr = s.ctr := by
  cases r with
  | cmd => exact absurd rfl hcmd
  | windata => exact (portOnly_writeWindata ht).ctr
  | hiwat | lowat =>
    cases ht
    simp only [writeHiwat, writeLowat]
    split <;> simp
  | winsel | winofs | cntsel | divh | rxtrig | stale | retry | reserve | holdoff | faultlim =>
    cases ht
    simp only [writeWinsel, writeWinofs, writeCntsel, writeDivh, writeRxtrig, writeStale, writeRetry, writeReserve,
      writeHoldoff, writeFaultlim]
    split <;> rfl
  | _ => cases ht; rfl

/-- A well-formed write of CMD names no command, and so no counter is cleared by it (R190). -/
theorem commandOf_of_wf_write {v : Byte} (hwf : c.wf = true) (hc : writtenRegister c = some (.cmd, v)) :
    commandOf v = none := by
  cases c with
  | unknownCommand code =>
    cases hc
    exact Option.isNone_iff_eq_none.mp hwf
  | registerWrite offset w =>
    obtain ⟨r, hr, hrv⟩ := Option.map_eq_some_iff.mp hc
    cases hrv
    simp [Instr.wf, isOtherWrite, hr, Register.hasOwnWriteRow] at hwf
  | _ => simp [writtenRegister] at hc

theorem countersGrow_write {r : Register} {v : Byte} (hwf : c.wf = true) (hc : writtenRegister c = some (r, v))
    (ht : exec c s = .next t) : CountersGrow s t := by
  rcases exec_write_cases hc ht with rfl | hw
  · exact .refl _
  by_cases hcmd : r = .cmd
  · subst hcmd
    cases hw
    exact countersGrow_of_ctr (by simp [writeCmd, commandOf_of_wf_write hwf hc])
  · exact countersGrow_of_ctr (writeRegister_ctr hcmd hw)

theorem hostRead_ctr {f : State → State} (hf : (f s).ctr = s.ctr) (ht : hostRead f s = .next t) : t.ctr = s.ctr := by
  unfold hostRead at ht
  split at ht <;> cases ht
  · rfl
  · exact hf

theorem countersGrow_exec (hwf : c.wf = true) (hreset : c ∉ supplyRows) (hclear : c ≠ .clearCounters)
    (ht : exec c s = .next t) : CountersGrow s t := by
  by_cases hcommand : c ∈ commandRows
  · obtain ⟨k, rfl⟩ := mem_commandRows.mp hcommand
    exact countersGrow_command (by rintro rfl; exact hclear rfl) ht
  by_cases hline : movesLine c = true
  · exact countersGrow_lineRow hline hreset ht
  cases hwrites : writtenRegister c with
  | some written => exact countersGrow_write hwf hwrites ht
  | none =>
    cases c with
    | stnRead | rxstatRead | flowRead | hstatRead | cntlRead => exact countersGrow_of_ctr (hostRead_ctr rfl ht)
    | windataRead =>
      simp only [exec, execWindataRead] at ht
      split at ht
      · cases ht; exact countersGrow_of_ctr rfl
      · exact countersGrow_of_ctr (portOnly_readWindata ht).ctr
    | registerWrite offset v =>
      have hr : registerAt offset = none := by simpa [writtenRegister] using hwrites
      rw [exec_registerWrite_of_no_register hr] at ht
      cases ht
      exact .refl _
    | staleTimerExpiry =>
      rw [exec, execStaleTimerExpiry] at ht
      exact countersGrow_lineEvent ht (countersGrow_of_ctr rfl)
    | _ => simp [commandRows, movesLine, writtenRegister] at hcommand hline hwrites

/-- Settles O18: each row counts events or leaves the counters standing, but for CLEAR_COUNTERS and the resets. -/
theorem countersNeverFall : Obligations.CountersNeverFall := by
  intro c s t hwf ht hc
  rw [List.mem_cons, not_or] at hc
  exact countersGrow_exec hwf hc.2 hc.1 ht

end Sys2Proof.Machine
end

section
/-! SUPPORT. The memory window (R193 to R195): the select and the offset as WINSEL and WINOFS take them, and the
accesses of WINDATA, allowed and refused. -/

namespace Sys2Proof.Machine

open Sys2Proof

variable {s : State} {v : Byte} {n : SlotId} {sl : Slot} {a : Nat}

/-! ### WINSEL and WINOFS -/

theorem winSelOf_byteOf (n : SlotId) : winSelOf (byteOf n.val) = some (.slot n) := by
  simp only [winSelOf, slotIdOf_byteOf]

theorem winSelOf_rxHead : winSelOf 0x10 = some .rxHead := by decide

theorem winSelOf_of_large (h : 16 < v.toNat) : winSelOf v = none := by
  have hne : v ≠ 0x10 := by
    rintro rfl
    exact absurd h (by decide)
  simp only [winSelOf, slotIdOf_of_large (show 15 < v.toNat by omega), if_neg hne]

section
variable (hhigh : s.resetLow = false)
include hhigh

/-- A select that is taken sets the offset to 0 (R193). -/
theorem exec_winselWrite_taken {w : WinSel} (hw : winSelOf v = some w) :
    exec (.winselWrite v) s = .next { s with hp := { s.hp with winSel := w, winOfs := 0 } } := by
  rw [exec, execWinselWrite, hostAccess_of_high _ hhigh, writeWinsel, hw]

theorem exec_winselWrite_refused (hw : winSelOf v = none) :
    exec (.winselWrite v) s = .next { s with hp := { s.hp with windowError := true } } := by
  rw [exec, execWinselWrite, hostAccess_of_high _ hhigh, writeWinsel, hw]
  rfl

theorem exec_winofsWrite (v : Byte) :
    exec (.winofsWrite v) s = .next
      (if v.toNat < 240 then { s with hp := { s.hp with winOfs := v.toNat } }
      else { s with hp := { s.hp with windowError := true } }) := by
  rw [exec, execWinofsWrite, hostAccess_of_high _ hhigh]
  rfl

end

/-- Settles O40: the three kinds of select, the two of offset, and both registers as they read. -/
theorem windowSelectAndOffset : Obligations.WindowSelectAndOffset := by
  intro s v hhigh
  refine ⟨?slot, ?rxHead, ?selectRefused, ?offset, ?offsetRefused, ?readSlot, ?readRxHead, ?readOffset, ?afterReset⟩
  case slot =>
    rintro n rfl
    exact exec_winselWrite_taken hhigh (winSelOf_byteOf n)
  case rxHead =>
    rintro rfl
    exact exec_winselWrite_taken hhigh winSelOf_rxHead
  case selectRefused => exact fun h => exec_winselWrite_refused hhigh (winSelOf_of_large h)
  case offset => exact fun h => by rw [exec_winofsWrite hhigh, if_pos (by omega)]
  case offsetRefused => exact fun h => by rw [exec_winofsWrite hhigh, if_neg (by omega)]
  case readSlot =>
    intro n hn
    rw [registerByte_of_high hhigh 0x1C (r := .winsel) rfl, registerContents, hn, winSelCode]
  case readRxHead =>
    intro hn
    rw [registerByte_of_high hhigh 0x1C (r := .winsel) rfl, registerContents, hn, winSelCode]
  case readOffset =>
    intro h
    rw [registerByte_of_high hhigh 0x1D (r := .winofs) rfl]
    exact toNat_byteOf (by omega)
  case afterReset =>
    rintro t ht
    cases ht
    exact ⟨rfl, rfl⟩

/-! ### The chain that the window reaches -/

theorem readable_iff {p : SlotPhase} : p.readable = true ↔ p.outcome = none := by
  cases p <;> simp [SlotPhase.readable, SlotPhase.outcome]

/-- A slot that is LOADING is written below its length, and nothing else is (R194). -/
theorem windowWriteChain_of_loading (hsel : s.hp.winSel = .slot n) (hs : slotAt s n = some sl)
    (hp : sl.phase = .loading) (hlt : s.hp.winOfs < sl.length) : windowWriteChain s = some sl.chain := by
  simp only [windowWriteChain, hsel, hs, hp, hlt, and_self, if_true]

theorem windowWriteChain_of_refused
    (h : s.hp.winSel = .rxHead ∨ ∃ n, s.hp.winSel = .slot n ∧
      ∀ sl, slotAt s n = some sl → sl.phase = .loading → sl.length ≤ s.hp.winOfs) :
    windowWriteChain s = none := by
  rcases h with hsel | ⟨n, hsel, hrefused⟩
  · simp only [windowWriteChain, hsel]
  · simp only [windowWriteChain, hsel]
    cases hs : slotAt s n with
    | none => rfl
    | some sl => exact if_neg fun ⟨hp, hlt⟩ => absurd (hrefused sl hs hp) (Nat.not_le.mpr hlt)

/-- A slot that is neither FREE nor DONE is read below its length (R194). -/
theorem windowReadChain_of_slot (hsel : s.hp.winSel = .slot n) (hs : slotAt s n = some sl)
    (hp : sl.phase.outcome = none) (hlt : s.hp.winOfs < sl.length) : windowReadChain s = some sl.chain := by
  simp only [windowReadChain, hsel, hs, readable_iff.mpr hp, hlt, decide_true, Bool.and_self, if_true]

/-- The head of the queue is read below its length (R194). -/
theorem windowReadChain_of_head {e : Entry} {rest : List Entry} (hsel : s.hp.winSel = .rxHead)
    (he : s.rq.entries = e :: rest) (hlt : s.hp.winOfs < e.length) : windowReadChain s = some e.chain := by
  simp only [windowReadChain, hsel, he, hlt, if_true]

theorem windowReadChain_of_refused
    (h : (s.hp.winSel = .rxHead ∧ ∀ e rest, s.rq.entries = e :: rest → e.length ≤ s.hp.winOfs) ∨
      ∃ n, s.hp.winSel = .slot n ∧
        ∀ sl, slotAt s n = some sl → sl.phase.outcome = none → sl.length ≤ s.hp.winOfs) :
    windowReadChain s = none := by
  rcases h with ⟨hsel, hrefused⟩ | ⟨n, hsel, hrefused⟩
  · simp only [windowReadChain, hsel]
    cases he : s.rq.entries with
    | nil => rfl
    | cons e rest => exact if_neg (Nat.not_lt.mpr (hrefused e rest he))
  · simp only [windowReadChain, hsel]
    cases hs : slotAt s n with
    | none => rfl
    | some sl =>
      refine if_neg fun htest => ?_
      obtain ⟨hread, hlt⟩ := Bool.and_eq_true_iff.mp htest
      exact absurd (hrefused sl hs (readable_iff.mp hread)) (Nat.not_le.mpr (of_decide_eq_true hlt))

/-! ### WINDATA -/

section
variable (hhigh : s.resetLow = false)
include hhigh

/-- An allowed write stores the byte where R51 puts the offset, and the offset steps on (R194). -/
theorem exec_windataWrite_allowed {chain : List Block} (hchain : windowWriteChain s = some chain)
    (ha : messageAddress chain s.hp.winOfs = some a) (v : Byte) :
    exec (.windataWrite v) s = .next
      { s with
        bp := { s.bp with mem := Memory.write s.bp.mem a v }
        hp := { s.hp with winOfs := min 240 (s.hp.winOfs + 1) } } := by
  have hstore : storeMessageByte chain s.hp.winOfs v s = some _ := storeMessageByte_eq.mpr ⟨a, ha, rfl⟩
  rw [exec, execWindataWrite, if_neg (by simp [hhigh])]
  simp only [writeWindata, hchain, hstore]
  rfl

theorem exec_windataWrite_refused (hchain : windowWriteChain s = none) (v : Byte) :
    exec (.windataWrite v) s = .next
      { s with hp := { s.hp with windowError := true, winOfs := min 240 (s.hp.winOfs + 1) } } := by
  rw [exec, execWindataWrite, if_neg (by simp [hhigh])]
  simp only [writeWindata, hchain]
  rfl

/-- An allowed read drives the byte that stands where R51 puts the offset, and the offset steps on (R194). -/
theorem exec_windataRead_allowed {chain : List Block} (hchain : windowReadChain s = some chain)
    (ha : messageAddress chain s.hp.winOfs = some a) :
    exec .windataRead s = .next { s with hp := { s.hp with
      dataOut := Memory.read s.bp.mem a, winOfs := min 240 (s.hp.winOfs + 1) } } := by
  rw [exec, execWindataRead, if_neg (by simp [hhigh])]
  simp only [readWindata, hchain, messageByte, ha, Option.map_some]
  rfl

theorem exec_windataRead_refused (hchain : windowReadChain s = none) :
    exec .windataRead s = .next { s with hp := { s.hp with
      dataOut := 0, windowError := true, winOfs := min 240 (s.hp.winOfs + 1) } } := by
  rw [exec, execWindataRead, if_neg (by simp [hhigh])]
  simp only [readWindata, hchain]
  rfl

end

/-- Settles O41: each access by the chain that the window reaches, or by its reaching none. -/
theorem windowDataAccess : Obligations.WindowDataAccess := by
  intro s v a hhigh
  refine ⟨?write, ?readSlot, ?readHead, ?writeRefused, ?readRefused⟩
  case write =>
    intro n sl hsel hs hp hlt ha hwf
    exact ⟨_, exec_windataWrite_allowed hhigh (windowWriteChain_of_loading hsel hs hp hlt) ha v, rfl,
      Memory.read_write_same hwf, fun b hb => Memory.read_write_other hb s.bp.mem⟩
  case readSlot =>
    exact fun n sl hsel hs hp hlt => exec_windataRead_allowed hhigh (windowReadChain_of_slot hsel hs hp hlt)
  case readHead =>
    exact fun e rest hsel he hlt => exec_windataRead_allowed hhigh (windowReadChain_of_head hsel he hlt)
  case writeRefused => exact fun h => exec_windataWrite_refused hhigh (windowWriteChain_of_refused h) v
  case readRefused => exact fun h => exec_windataRead_refused hhigh (windowReadChain_of_refused h)

end Sys2Proof.Machine
end

section
/-! SUPPORT. The writes of the configuration (R191, R192, R125, R121 to R123), of CNTSEL (R196), and of the registers
that REGISTER_WRITE stands for (R188, R189). -/

namespace Sys2Proof.Machine

open Sys2Proof

variable {s : State} {v : Byte}

theorem one_le_toNat_iff : 1 ≤ v.toNat ↔ v ≠ 0 := by
  rw [Nat.one_le_iff_ne_zero, not_iff_not, ← BitVec.toNat_inj]
  rfl

/-! ### DIVL and DIVH -/

/-- The two bytes of a divisor give it back (R192). -/
theorem div_bytes {d : Nat} (h : d ≤ 4095) : (byteOf d).toNat + 256 * (byteOf (d / 256)).toNat = d := by
  have hlow : (byteOf d).toNat = d % 256 := BitVec.toNat_ofNat d 8
  have hhigh : (byteOf (d / 256)).toNat = d / 256 := toNat_byteOf (by omega)
  rw [hlow, hhigh]
  exact Nat.mod_add_div d 256

/-- DIVL and DIVH read DIV as it stands, and not the staged byte (R192). -/
theorem read_div (hhigh : s.resetLow = false) (h : s.cfg.div ≤ 4095) :
    (registerByte s 0x20).toNat + 256 * (registerByte s 0x21).toNat = s.cfg.div := by
  rw [registerByte_of_high hhigh 0x20 (r := .divl) rfl, registerByte_of_high hhigh 0x21 (r := .divh) rfl]
  exact div_bytes h

/-! ### The water marks -/

theorem testEntry_of_free {u : State} (h : u.rq.congested = false) :
    testEntry u = if u.cfg.hiwat ≤ u.rq.entries.length then enterCongestion u else u :=
  if_congr (by simp [level, h]) rfl rfl

/-- The test after a water-mark write is that of the way out where the station is congested, and else that of the
way in (R125). -/
theorem testMarks_spec (u : State) : CongestionTested u (testMarks u) := by
  unfold CongestionTested testMarks
  split
  · next hcongested =>
    split
    · next hlow => exact testExit_leaves hcongested hlow
    · next habove => exact testExit_of_stays (.inr (Nat.lt_of_not_le habove))
  · next hfree =>
    rw [testEntry_of_free (Bool.eq_false_of_not_eq_true hfree)]
    split <;> rfl

/-! ### RXTRIG -/

/-- The stale timer runs on, starts at 0 or stops by the level (R122). -/
theorem judgeStale_eq (s : State) :
    judgeStale s = { s with rq := { s.rq with stale :=
      (if 0 < s.rq.entries.length ∧ s.rq.entries.length < s.cfg.rxtrig ∧ s.rq.rxStale = false
        then some (s.rq.stale.getD 0) else none) } } := by
  have htest : (staleRange s && !s.rq.rxStale) = true ↔
      0 < s.rq.entries.length ∧ s.rq.entries.length < s.cfg.rxtrig ∧ s.rq.rxStale = false := by
    rw [Bool.and_eq_true, staleRange_iff, Bool.not_eq_true', and_assoc]
  rw [judgeStale, if_congr htest rfl rfl]

/-! ### The rows -/

section
variable (hhigh : s.resetLow = false)
include hhigh

theorem exec_divlWrite (v : Byte) :
    exec (.divlWrite v) s = .next { s with hp := { s.hp with divLow := v } } := by
  rw [exec, execDivlWrite, hostAccess_of_high _ hhigh]
  rfl

theorem exec_divhWrite (v : Byte) :
    exec (.divhWrite v) s = .next
      (if s.sc.station = .offline ∧ 1 ≤ divValue s v ∧ divValue s v ≤ 4095
      then { s with cfg := { s.cfg with div := divValue s v } } else raiseConfigError s) := by
  rw [exec, execDivhWrite, hostAccess_of_high _ hhigh]
  rfl

theorem exec_hiwatWrite (v : Byte) :
    exec (.hiwatWrite v) s = .next
      (if 1 ≤ v.toNat ∧ v.toNat ≤ 24 ∧ s.cfg.lowat < v.toNat
      then testMarks { s with cfg := { s.cfg with hiwat := v.toNat } } else raiseConfigError s) := by
  rw [exec, execHiwatWrite, hostAccess_of_high _ hhigh]
  rfl

theorem exec_lowatWrite (v : Byte) :
    exec (.lowatWrite v) s = .next
      (if v.toNat ≤ 23 ∧ v.toNat < s.cfg.hiwat
      then testMarks { s with cfg := { s.cfg with lowat := v.toNat } } else raiseConfigError s) := by
  rw [exec, execLowatWrite, hostAccess_of_high _ hhigh]
  rfl

theorem exec_rxtrigWrite (v : Byte) :
    exec (.rxtrigWrite v) s = .next
      (if 1 ≤ v.toNat ∧ v.toNat ≤ 24
      then judgeStale { s with cfg := { s.cfg with rxtrig := v.toNat } } else raiseConfigError s) := by
  rw [exec, execRxtrigWrite, hostAccess_of_high _ hhigh]
  rfl

theorem exec_staleWrite (v : Byte) :
    exec (.staleWrite v) s = .next
      (if 1 ≤ v.toNat then { s with cfg := { s.cfg with stale := v.toNat } } else raiseConfigError s) := by
  rw [exec, execStaleWrite, hostAccess_of_high _ hhigh]
  rfl

end

/-- Settles O43: each write by its test. -/
theorem configurationWrites : Obligations.ConfigurationWrites := by
  refine ⟨fun s v d hhigh hd => ?_, fun s v hhigh => ?_⟩
  · have hvalue : divValue s v = d := hd.symm
    refine ⟨⟨_, exec_divlWrite hhigh v, rfl, read_div (by exact hhigh)⟩, fun hrefused => ?_,
      fun hoffline hlow hup => ?_⟩
    · have htest : ¬ (s.sc.station = .offline ∧ 1 ≤ d ∧ d ≤ 4095) := by
        rintro ⟨hoffline, hlow, hup⟩
        rcases hrefused with h | h | h
        · exact h hoffline
        · omega
        · omega
      rw [exec_divhWrite hhigh, hvalue, if_neg htest]
      rfl
    · rw [exec_divhWrite hhigh, hvalue, if_pos ⟨hoffline, hlow, hup⟩]
      exact ⟨_, rfl, rfl, read_div (by exact hhigh) hup⟩
  · refine ⟨fun h => ?hiwatRefused, fun hlow hup hover => ?hiwat, fun h => ?lowatRefused, fun hup hunder => ?lowat,
      fun h => ?rxtrigRefused, fun hlow hup => ?rxtrig, fun h => ?staleRefused, fun h => ?stale⟩
    case hiwatRefused =>
      rw [exec_hiwatWrite hhigh, if_neg (by omega)]
      rfl
    case hiwat =>
      rw [exec_hiwatWrite hhigh, if_pos ⟨hlow, hup, hover⟩]
      exact ⟨_, rfl, testMarks_spec _⟩
    case lowatRefused =>
      rw [exec_lowatWrite hhigh, if_neg (by omega)]
      rfl
    case lowat =>
      rw [exec_lowatWrite hhigh, if_pos ⟨hup, hunder⟩]
      exact ⟨_, rfl, testMarks_spec _⟩
    case rxtrigRefused =>
      rw [exec_rxtrigWrite hhigh, if_neg (by omega)]
      rfl
    case rxtrig =>
      rw [exec_rxtrigWrite hhigh, if_pos ⟨hlow, hup⟩, judgeStale_eq]
    case staleRefused =>
      rw [exec_staleWrite hhigh, if_neg (fun hone => one_le_toNat_iff.mp hone h)]
      rfl
    case stale =>
      rw [exec_staleWrite hhigh, if_pos (one_le_toNat_iff.mpr h)]

/-! ### CNTSEL -/

/-- The counters in the order of their numbers (11.2). -/
theorem counterOf_eq (v : Byte) :
    counterOf v = [Counter.sent, .lostContention, .echoFault, .received, .damaged, .stray, .duplicate,
      .dropped][v.toNat]? := by
  unfold counterOf
  match v.toNat with
  | 0 | 1 | 2 | 3 | 4 | 5 | 6 | 7 | _ + 8 => rfl

theorem counterCode_counterOf {k : Counter} (h : counterOf v = some k) : counterCode k = v := by
  apply BitVec.eq_of_toNat_eq
  unfold counterOf at h
  split at h <;> cases h
  all_goals next hv => rw [hv]; rfl

section
variable (hhigh : s.resetLow = false)
include hhigh

theorem exec_cntselWrite_taken {k : Counter} (hk : counterOf v = some k) :
    exec (.cntselWrite v) s = .next { s with hp := { s.hp with cntSel := k } } := by
  rw [exec, execCntselWrite, hostAccess_of_high _ hhigh, writeCntsel, hk]

theorem exec_cntselWrite_refused (hk : counterOf v = none) :
    exec (.cntselWrite v) s = .next { s with hp := { s.hp with configError := true } } := by
  rw [exec, execCntselWrite, hostAccess_of_high _ hhigh, writeCntsel, hk]
  rfl

theorem exec_clear : exec .clear s = .next (clearBody (recordCode 0x4F s)) := by
  rw [exec, execClear, hostAccess_of_high _ hhigh]

end

/-- Settles O39: the eight numbers, every other byte, and what the resets and CLEAR do to the select. -/
theorem counterSelect : Obligations.CounterSelect := by
  intro s v hhigh
  refine ⟨fun k hk => ?_, fun hlarge => ?_, fun t ht => ?_, fun t ht => ?_⟩
  · rw [← counterOf_eq] at hk
    refine ⟨_, exec_cntselWrite_taken hhigh hk, rfl, ?_, rfl⟩
    rw [registerByte_of_high (by exact hhigh) 0x30 (r := .cntsel) rfl]
    exact counterCode_counterOf hk
  · refine exec_cntselWrite_refused hhigh ?_
    rw [counterOf_eq]
    exact List.getElem?_eq_none hlarge
  · cases ht
    rfl
  · rw [exec_clear hhigh] at ht
    cases ht
    rfl

/-! ### REGISTER_WRITE -/

/-- A register that no write changes (11.1). -/
def Register.readOnly : Register → Bool
  | .ident | .version | .cst | .res _ | .hstat | .intid | .flow | .stn0 | .stn1 | .rxstat0 | .rxstat1 | .head _
  | .freecnt | .cntl | .cnth => true
  | _ => false

theorem writeRegister_of_readOnly {r : Register} (hr : Register.readOnly r = true) (v : Byte) (s : State) :
    writeRegister r v s = .next s := by
  cases r with
  | ident | version | cst | res | hstat | intid | flow | stn0 | stn1 | rxstat0 | rxstat1 | head | freecnt | cntl
  | cnth => rfl
  | _ => cases hr

theorem exec_registerWrite {offset : BitVec 6} {r : Register} (hhigh : s.resetLow = false)
    (hr : registerAt offset = some r) (v : Byte) : exec (.registerWrite offset v) s = writeRegister r v s := by
  rw [exec, execRegisterWrite, if_neg (by simp [hhigh]), hr]

/-- The read-only registers and the offsets without a register, by number (11.1). -/
theorem registerAt_ignored : ∀ offset : BitVec 6, offset.toNat ∈ [0x00, 0x01, 0x03, 0x08, 0x09, 0x0A, 0x0B, 0x0C,
      0x0D, 0x0F, 0x10, 0x11, 0x12, 0x13, 0x14, 0x15, 0x16, 0x17, 0x18, 0x19, 0x1A, 0x1B, 0x1F, 0x2B, 0x2C, 0x2D,
      0x2E, 0x2F, 0x31, 0x32] ∨ 0x33 ≤ offset.toNat → (registerAt offset).all Register.readOnly = true := by
  decide

theorem exec_registerWrite_ignored {offset : BitVec 6} (hhigh : s.resetLow = false)
    (hall : (registerAt offset).all Register.readOnly = true) (v : Byte) :
    exec (.registerWrite offset v) s = .next s := by
  cases hr : registerAt offset with
  | none => exact exec_registerWrite_of_no_register hr v s
  | some r =>
    rw [exec_registerWrite hhigh hr]
    exact writeRegister_of_readOnly (by simpa [hr] using hall) v s

theorem registerAt_arg (i : Fin 4) : registerAt (BitVec.ofNat 6 (4 + i.val)) = some (.arg i) := by
  revert i
  decide

theorem Quad.get_set (q : Quad) (i j : Fin 4) (v : Byte) : (q.set i v).get j = if j = i then v else q.get j := by
  revert i j
  simp [Fin.forall_fin_succ, Quad.get, Quad.set]

/-- Settles O44: each offset by its register. -/
theorem otherRegisterWrites : Obligations.OtherRegisterWrites := by
  intro s v hhigh
  refine ⟨fun i => ?arg, ?retry, ?reserve, ?holdoff, ?faultlim, ?rxopt, fun offset h => ?ignored⟩
  case arg =>
    refine ⟨_, exec_registerWrite hhigh (registerAt_arg i) v, rfl, ?_, fun j hj => ?_⟩
    · exact (Quad.get_set ..).trans (if_pos rfl)
    · exact (Quad.get_set ..).trans (if_neg hj)
  case retry => exact exec_registerWrite hhigh (r := .retry) rfl v
  case reserve => exact exec_registerWrite hhigh (r := .reserve) rfl v
  case holdoff =>
    rw [exec_registerWrite hhigh (r := .holdoff) rfl, ← if_congr one_le_toNat_iff rfl rfl]
    rfl
  case faultlim => exact exec_registerWrite hhigh (r := .faultlim) rfl v
  case rxopt => exact exec_registerWrite hhigh (r := .rxopt) rfl v
  case ignored => exact exec_registerWrite_ignored hhigh (registerAt_ignored offset h) v

end Sys2Proof.Machine
end

section
/-! SUPPORT. The front command of the queue; the codes that name no command, CLEAR_COUNTERS and CLEAR (R190, R198,
R199); and the state after reset (11.1, R177). -/

namespace Sys2Proof.Machine

open Sys2Proof

variable {s : State}

/-! ### The step on a waiting command -/

theorem step_of_waiting (c : Instr) (rest : List Instr) (s : State) :
    step { s with pending := c :: rest } = exec c { s with pending := rest } := rfl

/-- Settles O1: what a step does where a command waits. -/
theorem stepRunsTheFrontCommand : Obligations.StepRunsTheFrontCommand := step_of_waiting

/-! ### Codes that name no command -/

/-- The codes of the commands (11.3) are all that name one. -/
theorem commandOf_of_unlisted {code : Byte}
    (h : code.toNat ∉ [0x10, 0x11, 0x12, 0x13, 0x20, 0x21, 0x22, 0x23, 0x30, 0x31, 0x38, 0x39, 0x40, 0x41, 0x42, 0x43,
      0x44, 0x4F, 0x50]) : commandOf code = none := by
  unfold commandOf
  split
  case h_20 => rfl
  all_goals next hcode => simp [hcode] at h

/-- Settles O37: the code is recorded and answered with UNKNOWN. -/
theorem unknownCodesChangeNothing : Obligations.UnknownCodesChangeNothing := by
  intro s code hhigh hcode
  rw [exec, execUnknownCommand, hostAccess_of_high _ hhigh, writeCmd, commandOf_of_unlisted hcode]
  rfl

/-! ### CLEAR_COUNTERS -/

theorem exec_clearCounters (h : s.resetLow = false) :
    exec .clearCounters s = .next (withResults 0x50 .ok .zero { s with ctr := .zero }) := by
  rw [exec, execClearCounters, hostAccess_of_high _ h]
  rfl

theorem Counters.zero_get (k : Counter) : Counters.zero.get k = 0 := by cases k <;> rfl

/-- Settles O36: the counters are set whatever they held, and an event after it finds its counter at 0. -/
theorem clearCountersSetsAllToZero : Obligations.ClearCountersSetsAllToZero := by
  rintro s t k hhigh rfl
  refine ⟨exec_clearCounters hhigh, Counters.zero_get, exec_clearCounters (s := countEvent k s) hhigh, ?_,
    fun u hu => ?_, fun u hu => ?_⟩
  · have hcount := Counters.count_get k k .zero
    rw [if_pos rfl, Counters.zero_get] at hcount
    exact hcount
  · rw [exec_clear hhigh] at hu
    cases hu
    rfl
  · cases hu
    exact Counters.zero_get

/-! ### CLEAR -/

/-- The part as CLEAR leaves it (R199). -/
def cleared (s : State) : State :=
  { State.reset with
    bp := { free := List.finRange 128, mem := s.bp.mem }
    fr := { State.reset.fr with groups := s.fr.groups }
    sc := { station := .offline, address := s.sc.address, faultEvent := false }
    iu := { State.reset.iu with inten := s.iu.inten }
    hp := { s.hp with
      cmd := 0x4F, cst := .ok, res := .zero, windowError := false, configError := false, winOfs := 0 }
    cfg := s.cfg
    ctr := s.ctr
    resetLow := false
    pending := s.pending }

theorem exec_clear_eq (h : s.resetLow = false) : exec .clear s = .next (cleared s) := by
  have hbody : clearBody (recordCode 0x4F s) = { cleared s with resetLow := s.resetLow } := rfl
  rw [exec_clear h, hbody, h]
  rfl

theorem slotAt_of_reset (hts : s.ts = .reset) (n : SlotId) : slotAt s n = none := by
  simp [slotAt, hts, Ts.reset]

/-- With no slot and no entry there is nothing that the window reaches (R194). -/
theorem windowChains_of_nothing (hts : s.ts = .reset) (hrq : s.rq.entries = []) :
    windowWriteChain s = none ∧ windowReadChain s = none := by
  have hslot := slotAt_of_reset hts
  cases hsel : s.hp.winSel with
  | rxHead =>
    exact ⟨windowWriteChain_of_refused (.inl hsel), windowReadChain_of_refused (.inl ⟨hsel, by simp [hrq]⟩)⟩
  | slot n =>
    exact ⟨windowWriteChain_of_refused (.inr ⟨n, hsel, by simp [hslot]⟩),
      windowReadChain_of_refused (.inr ⟨n, hsel, by simp [hslot]⟩)⟩

/-- Settles O35: CLEAR's effect, the window that then reaches nothing, and the values of hardware reset. -/
theorem clearResetsTheCollections : Obligations.ClearResetsTheCollections := by
  refine ⟨?_, fun s => ⟨_, rfl, rfl, rfl, rfl, Counters.zero_get⟩⟩
  intro s t hhigh ht
  obtain rfl : t = cleared s := ht
  obtain ⟨hwrite, hread⟩ := windowChains_of_nothing (s := cleared s) rfl rfl
  exact ⟨exec_clear_eq hhigh, slotAt_of_reset rfl, rfl, exec_windataWrite_refused rfl hwrite,
    exec_windataRead_refused rfl hread⟩

/-! ### The state after reset -/

theorem reset_record (r : Rx) : State.reset.fr.record ≠ some r := by simp [State.reset, Fr.reset]

/-- Every block stands on the free list (R48, R49). -/
theorem blockLaw_reset : BlockLaw State.reset := by
  have hslot := slotAt_of_reset (s := State.reset) rfl
  refine ⟨⟨fun _ => rfl, fun _ => rfl, fun r hr => absurd hr (reset_record r)⟩, fun n sl hn => ?_, ?_⟩
  · simp [hslot] at hn
  · have hslots : slotBlocks State.reset = [] := by simp [slotBlocks, hslot]
    have hheld : heldBlocks State.reset = List.finRange 128 := by
      rw [heldBlocks, hslots]
      simp [State.reset, Rq.reset, Fr.reset, Bp.fullList, entryBlocks, recordBlocks]
    rw [hheld]

theorem chainLaw_reset : ChainLaw State.reset := by
  have hslot := slotAt_of_reset (s := State.reset) rfl
  refine ⟨fun n sl hn => ?_, fun e he => absurd he List.not_mem_nil, fun r hr => absurd hr (reset_record r)⟩
  simp [hslot] at hn

/-- LAC stands still with its count at 0, and no flag is demoted (R45). -/
theorem marksTaken_reset : MarksTaken State.reset := by
  simp [MarksTaken, State.reset, Lac.reset]

/-- Settles O3: the map read offset by offset, and each law of the empty collections. -/
theorem resetState : Obligations.ResetState := by
  refine ⟨by decide +kernel, Memory.reset_wf, blockLaw_reset, ?level, queuesLaw_of_reset rfl, ?refused,
    peerLaw_of_empty rfl, configLaw_of_reset rfl, stationLaw_of_reset rfl rfl rfl, chainLaw_reset,
    offerLaw_of_reset rfl rfl rfl rfl, marksTaken_reset⟩
  case level => exact ⟨Nat.zero_le _, fun r hr => absurd hr (reset_record r)⟩
  case refused => exact refusedLaw_of_empty rfl rfl

end Sys2Proof.Machine
end

section
/-! SUPPORT. The memory window beside the slot commands (R204): none of ALLOCATE, SUBMIT, ABORT and COLLECT moves
it but by the head that an ABORT in LOOP brings (R195), and the accesses that follow test the slot as it stands. -/

namespace Sys2Proof.Machine

open Sys2Proof

variable {s t u : State} {n : SlotId}

/-! ### The offset of the window -/

/-- In LOOP the queue was empty, an entry has become the head under the select, and the offset is 0 (R113, R195). -/
def HeadArrives (s t : State) : Prop :=
  s.sc.station = .loop ∧ s.hp.winSel = .rxHead ∧ s.rq.entries = [] ∧ t.rq.entries ≠ [] ∧ t.hp.winOfs = 0

/-- The offset stands as it stood, unless a head has arrived under the select. -/
def OffsetLeft (s t : State) : Prop := t.hp.winOfs = s.hp.winOfs ∨ HeadArrives s t

theorem OffsetLeft.before (h : OffsetLeft u t) (hsc : u.sc = s.sc) (hhp : u.hp = s.hp) (hrq : u.rq = s.rq) :
    OffsetLeft s t := by
  rwa [OffsetLeft, HeadArrives, ← hsc, ← hhp, ← hrq]

theorem OffsetLeft.after (h : OffsetLeft s u) (hofs : t.hp.winOfs = u.hp.winOfs) (hrq : t.rq = u.rq) :
    OffsetLeft s t := by
  rwa [OffsetLeft, HeadArrives, hofs, hrq]

/-! ### A reception that FR ends in LOOP -/

/-- An append changes the head only where the queue is empty (R117, R195). -/
theorem offsetLeft_appendEntry (hst : s.sc.station = .loop) (e : Entry) : OffsetLeft s (appendEntry e s) := by
  rw [appendEntry_eq]
  by_cases hempty : s.rq.entries = []
  · by_cases hsel : s.hp.winSel = .rxHead
    · exact .inr ⟨hst, hsel, hempty, by simp, by simp [hempty, offsetAtNewHead, hsel]⟩
    · exact .inl (by simp [offsetAtNewHead, hsel])
  · exact .inl (by simp [hempty])

theorem offsetLeft_keepEntry (hst : s.sc.station = .loop) (e : Entry) (chain : List Block) :
    OffsetLeft s (keepEntry e chain s) :=
  (offsetLeft_appendEntry (s := releaseChain _ s) hst _).before rfl rfl rfl

theorem offsetLeft_dealDamaged (hst : s.sc.station = .loop) (how : Ending) (mode : FrMode) (r : Rx) :
    OffsetLeft s (dealDamaged how mode r s) := by
  simp only [dealDamaged]
  split
  · split
    · exact (offsetLeft_keepEntry (s := countEvent .damaged s) hst _ _).before rfl rfl rfl
    · exact .inl rfl
  · exact .inl rfl

theorem offsetLeft_endReception_truncated (hst : s.sc.station = .loop) :
    OffsetLeft s (endReception .truncated s) := by
  unfold endReception
  split
  · exact .inl rfl
  · next r _ =>
    dsimp only
    generalize hreported : (if r.candidate = true then _ else _ : State) = u
    obtain ⟨hsc, hhp, hrq⟩ : u.sc = s.sc ∧ u.hp = s.hp ∧ u.rq = s.rq := by
      subst hreported
      split <;> simp [afterEnding]
    have hdealt : OffsetLeft s (dealDamaged .truncated s.fr.mode r u) :=
      (offsetLeft_dealDamaged (hsc ▸ hst) _ _ _).before hsc hhp hrq
    split
    · exact hdealt.after (by simp) (by simp)
    · exact hdealt

/-! ### ABORT -/

/-- A cut outside LOOP takes no frame into the queue (R97); in LOOP FR takes it as a truncation (R113). -/
theorem offsetLeft_cutByAbort (s : State) : OffsetLeft s (cutByAbort s) := by
  simp only [cutByAbort]
  split
  · exact .inl rfl
  · split
    · next hst =>
      exact ((offsetLeft_endReception_truncated (s := stopBurst .quiet { s with lac := { s.lac with path := [] } })
        hst).before rfl rfl rfl).after rfl rfl
    · exact .inl (by simp)

theorem offsetLeft_abortSlot (n : SlotId) (sl : Slot) (s : State) : OffsetLeft s (abortSlot n sl s) := by
  unfold abortSlot
  split
  case h_4 => exact (offsetLeft_cutByAbort s).after (by simp) (by simp)
  all_goals exact .inl (by simp)

theorem offsetLeft_abortBody (s : State) : OffsetLeft s (abortBody s) := by
  unfold abortBody
  split
  · exact .inl rfl
  · split
    · exact .inl rfl
    · exact offsetLeft_abortSlot _ _ s

theorem abortBody_winSel (s : State) : (abortBody s).hp.winSel = s.hp.winSel := by
  simp only [abortBody, abortSlot]
  (repeat' split) <;> simp

/-! ### The four slot commands -/

theorem exec_collect (hhigh : s.resetLow = false) :
    exec .collect s = .next (collectBody (recordCode 0x13 s)) := by
  rw [exec, execCollect, hostAccess_of_high _ hhigh]

/-- What a slot command leaves of the window, and RESET# (R204). -/
theorem slotCommand_window {c : Instr} (hc : c ∈ ([.allocate, .submit, .abort, .collect] : List Instr))
    (hhigh : s.resetLow = false) (ht : exec c s = .next t) :
    t.resetLow = false ∧ t.hp.winSel = s.hp.winSel ∧
      (t.hp.winOfs = s.hp.winOfs ∨ c = .abort ∧ HeadArrives s t) := by
  simp only [List.mem_cons, List.not_mem_nil, or_false] at hc
  rcases hc with rfl | rfl | rfl | rfl
  · rw [exec_allocate hhigh] at ht
    cases ht
    simp [hhigh]
  · rw [exec_submit hhigh] at ht
    cases ht
    simp [hhigh]
  · rw [exec_abort hhigh] at ht
    cases ht
    have hofs : OffsetLeft s (abortBody (recordCode 0x12 s)) := offsetLeft_abortBody (recordCode 0x12 s)
    exact ⟨by simp [hhigh], abortBody_winSel _, hofs.imp_right fun harrives => ⟨rfl, harrives⟩⟩
  · rw [exec_collect hhigh] at ht
    cases ht
    simp [hhigh]

/-- Settles O24: the window beside CLEAR and the slot commands, and the accesses to the slot as it then stands. -/
theorem slotCommandsLeaveTheWindow : Obligations.SlotCommandsLeaveTheWindow := by
  refine ⟨fun s t hhigh ht => ?clear, fun c s t hc hhigh ht => ?slotCommand⟩
  case clear =>
    rw [exec_clear_eq hhigh] at ht
    cases ht
    exact ⟨rfl, rfl⟩
  case slotCommand =>
    obtain ⟨hhigh', hsel, hofs⟩ := slotCommand_window hc hhigh ht
    refine ⟨hsel, hofs, fun n hn => ?_⟩
    have hslot : t.hp.winSel = .slot n := hsel.trans hn
    have hsame : t.hp.winOfs = s.hp.winOfs := by
      rcases hofs with hsame | ⟨_, _, hhead, _⟩
      · exact hsame
      · cases hn.symm.trans hhead
    rw [← hsame]
    refine ⟨rfl, fun v h => ?writeRefused, fun v sl a hs hp hlt ha => ?write, fun h => ?readRefused,
      fun sl a hs hp hlt ha => ?read⟩
    case writeRefused =>
      exact exec_windataWrite_refused hhigh' (windowWriteChain_of_refused (.inr ⟨n, hslot, h⟩)) v
    case write => exact exec_windataWrite_allowed hhigh' (windowWriteChain_of_loading hslot hs hp hlt) ha v
    case readRefused =>
      exact exec_windataRead_refused hhigh' (windowReadChain_of_refused (.inr ⟨n, hslot, h⟩))
    case read => exact exec_windataRead_allowed hhigh' (windowReadChain_of_slot hslot hs hp hlt) ha

end Sys2Proof.Machine
end

section
/-! SUPPORT. Who writes message memory (R47): a payload character and the window store one byte at an address below
4096, power-up clears it, and no other row touches it. -/

namespace Sys2Proof.Machine

open Sys2Proof

variable {s t u : State} {c : Instr} {b : Byte} {r : Rx}

/-! ### One byte stored -/

/-- Message memory stands, or one byte of it is replaced. -/
def StoresAtMostOne (s t : State) : Prop :=
  t.bp.mem = s.bp.mem ∨ ∃ a v, a < Config.memoryBytes ∧ t.bp.mem = Memory.write s.bp.mem a v

theorem StoresAtMostOne.wf (h : StoresAtMostOne s t) (hw : Memory.wf s.bp.mem = true) : Memory.wf t.bp.mem = true := by
  rcases h with h | ⟨a, v, ha, h⟩ <;> rw [h]
  · exact hw
  · exact Memory.write_wf hw ha

theorem StoresAtMostOne.before (h : StoresAtMostOne u t) (hu : u.bp.mem = s.bp.mem) : StoresAtMostOne s t := by
  rwa [StoresAtMostOne, ← hu]

theorem StoresAtMostOne.after (h : StoresAtMostOne s u) (ht : t.bp.mem = u.bp.mem) : StoresAtMostOne s t := by
  rwa [StoresAtMostOne, ht]

theorem storesAtMostOne_storeMessageByte {chain : List Block} {k : Nat}
    (h : storeMessageByte chain k b s = some t) : StoresAtMostOne s t := by
  obtain ⟨a, ha, rfl⟩ := storeMessageByte_eq.mp h
  exact .inr ⟨a, b, messageAddress_lt ha, rfl⟩

theorem storesAtMostOne_writeWindata {v : Byte} (h : writeWindata v s = .next t) : StoresAtMostOne s t := by
  unfold writeWindata at h
  split at h
  · cases h; exact .inl rfl
  · split at h <;> cases h
    next hstore => exact (storesAtMostOne_storeMessageByte hstore).after rfl

/-! ### A character -/

theorem bodyDone_mem (x : Rx) (s : State) : (bodyDone x s).bp.mem = s.bp.mem := by
  unfold bodyDone
  split <;> rfl

/-- A payload character of a claimed frame is stored, any other is not (R55, R105). -/
theorem storesAtMostOne_takeBody (ht : takeBody b r s = some t) : StoresAtMostOne s t := by
  unfold takeBody at ht
  split at ht
  · cases ht; exact .inl (bodyDone_mem _ _)
  · split at ht
    · obtain ⟨u, hu, rfl⟩ := Option.map_eq_some_iff.mp ht
      exact (storesAtMostOne_storeMessageByte hu).after (bodyDone_mem _ _)
    · cases ht; exact .inl (bodyDone_mem _ _)

theorem storesAtMostOne_takeComplete (ht : takeComplete b r s = some t) : StoresAtMostOne s t := by
  unfold takeComplete at ht
  dsimp only at ht
  split at ht
  · cases ht; exact .inl (by simp)
  · exact (storesAtMostOne_takeBody ht).before rfl
  · cases ht; exact .inl (by simp)
  · cases ht; exact .inl rfl

theorem storesAtMostOne_takeCharacter {stop : LineBit} (ht : takeCharacter b stop r s = some t) :
    StoresAtMostOne s t := by
  unfold takeCharacter at ht
  split at ht
  · cases ht; exact .inl (by simp)
  · exact (storesAtMostOne_takeComplete ht).before rfl

theorem closeAtDeadline_mem (s : State) : (closeAtDeadline s).bp.mem = s.bp.mem := by
  unfold closeAtDeadline
  split <;> simp

theorem takeMarks_mem (s : State) : (takeMarks s).bp.mem = s.bp.mem :=
  takeMarks_stages (P := fun u => u.bp.mem = s.bp.mem) rfl (fun _ _ hu => hu) (fun _ hu _ => by simpa using hu)
    (fun u hu _ => (closeAtDeadline_mem u).trans hu) fun _ hu => hu

theorem arrivingCharacter_mem {v c : Byte} {stop st : LineBit} (ha : arrivingCharacter v stop s = some (c, st, u)) :
    u.bp.mem = s.bp.mem := by
  unfold arrivingCharacter at ha
  split at ha
  · cases ha
  · split at ha <;> cases ha
    rfl
  · split at ha <;> cases ha
    split
    · rfl
    · exact takeMarks_mem s

theorem storesAtMostOne_characterReceived {v : Byte} {stop : LineBit}
    (ht : exec (.characterReceived v stop) s = .next t) : StoresAtMostOne s t := by
  simp only [exec, execCharacterReceived] at ht
  split at ht
  · cases ht; exact .inl rfl
  split at ht
  · cases ht; exact .inl rfl
  next c st u harrives =>
    have hu := arrivingCharacter_mem harrives
    split at ht
    · split at ht <;> cases ht
      exact (storesAtMostOne_takeCharacter (by assumption)).before hu
    · split at ht <;> cases ht
      · exact .inl hu
      · exact .inl rfl

/-! ### The rows that leave message memory -/

theorem commandBody_mem (k : HostCommand) (u : State) : (commandBody k u).bp.mem = u.bp.mem := by
  cases k <;> simp [commandBody, clearBody, clearBlocks]

theorem lineEvent_mem {holds : Bool} {f : State → State} (ht : lineEvent holds f s = .next t)
    (hf : (f s).bp.mem = s.bp.mem) : t.bp.mem = s.bp.mem := by
  rcases lineEvent_cases ht with rfl | ⟨_, _, rfl⟩
  · rfl
  · exact hf

theorem hostRead_mem {f : State → State} (ht : hostRead f s = .next t) (hf : (f s).bp.mem = s.bp.mem) :
    t.bp.mem = s.bp.mem := by
  unfold hostRead at ht
  split at ht <;> cases ht
  · rfl
  · exact hf

theorem readWindata_mem (ht : readWindata s = .next t) : t.bp.mem = s.bp.mem := by
  unfold readWindata at ht
  split at ht
  · cases ht; rfl
  · split at ht <;> cases ht
    rfl

/-- A write of a register but WINDATA stores nothing. -/
theorem writeRegister_mem {r : Register} {v : Byte} (hr : r ≠ .windata) (ht : writeRegister r v s = .next t) :
    t.bp.mem = s.bp.mem := by
  cases r with
  | windata => exact absurd rfl hr
  | cmd =>
    cases ht
    unfold writeCmd
    split
    · rfl
    · exact commandBody_mem _ _
  | hiwat | lowat =>
    cases ht
    simp only [writeHiwat, writeLowat]
    split <;> simp
  | winsel | winofs | cntsel | divh | rxtrig | stale | retry | reserve | holdoff | faultlim =>
    cases ht
    simp only [writeWinsel, writeWinofs, writeCntsel, writeDivh, writeRxtrig, writeStale, writeRetry, writeReserve,
      writeHoldoff, writeFaultlim]
    split <;> rfl
  | _ => cases ht; rfl

/-- The rows of the line but CHARACTER_RECEIVED, and the resets but power-up, store nothing. -/
theorem lineRow_mem (hc : movesLine c = true) (hcharacter : ∀ v b, c ≠ .characterReceived v b) (hpower : c ≠ .powerUp)
    (ht : exec c s = .next t) : t.bp.mem = s.bp.mem := by
  cases c with
  | powerUp => exact absurd rfl hpower
  | characterReceived v b => exact absurd rfl (hcharacter v b)
  | resetAsserted | resetReleased => cases ht; rfl
  | startBit =>
    rw [exec, execStartBit] at ht
    exact lineEvent_mem ht (by simp [takeMarks_mem])
  | gapGuardClear | gapLimitRecover | holdoffExpiry => exact lineEvent_mem ht (by simp)
  | gapLimitTruncation =>
    rw [exec, execGapLimitTruncation] at ht
    exact lineEvent_mem ht (by simp)
  | demotionClear =>
    rw [exec, execDemotionClear] at ht
    exact lineEvent_mem ht rfl
  | dominantBitInRecover =>
    rw [exec, execDominantBitInRecover] at ht
    exact lineEvent_mem ht (by simp [takeMarks_mem])
  | leadStart =>
    rcases exec_leadStart_cases ht with rfl | ⟨o, chars, _, _, _, rfl⟩
    · rfl
    · simp
  | contentionLost k =>
    rcases exec_contentionLost_cases ht with rfl | ⟨burst, _, _, _, rfl⟩
    · rfl
    · simp
  | leadWon =>
    rcases exec_leadWon_cases ht with rfl | ⟨burst, _, _, rfl⟩ <;> rfl
  | echoFault k =>
    rcases exec_echoFault_cases ht with rfl | ⟨burst, _, _, _, rfl⟩
    · rfl
    · simp
  | frameSent =>
    rcases exec_frameSent_cases ht with rfl | ⟨burst, _, _, rfl⟩
    · rfl
    · simp
  | responseStart =>
    rcases exec_responseStart_cases ht with rfl | ⟨chars, u, _, _, rfl, rfl⟩
    · rfl
    · simp [takeMarks_mem]
  | responseSent =>
    rcases exec_responseSent_cases ht with rfl | ⟨burst, _, _, rfl⟩
    · rfl
    · simp
  | noResponse =>
    rcases exec_noResponse_cases ht with rfl | ⟨_, rfl⟩
    · rfl
    · simp [closeAtDeadline_mem]
  | _ => simp [movesLine] at hc

/-- A row that writes no register, and is neither a character nor power-up, stores nothing. -/
theorem exec_mem_of_no_write (hwrites : writtenRegister c = none) (hcharacter : ∀ v b, c ≠ .characterReceived v b)
    (hpower : c ≠ .powerUp) (ht : exec c s = .next t) : t.bp.mem = s.bp.mem := by
  by_cases hline : movesLine c = true
  · exact lineRow_mem hline hcharacter hpower ht
  by_cases hcommand : c ∈ commandRows
  · obtain ⟨k, rfl⟩ := mem_commandRows.mp hcommand
    rw [exec_commandRow] at ht
    rcases hostAccess_cases ht with rfl | rfl
    · rfl
    · exact commandBody_mem k (recordCode _ s)
  have hrest : ¬ (movesLine c = true ∨ c ∈ commandRows) := not_or.mpr ⟨hline, hcommand⟩
  cases c with
  | stnRead | rxstatRead | flowRead | hstatRead | cntlRead => exact hostRead_mem ht rfl
  | windataRead =>
    simp only [exec, execWindataRead] at ht
    split at ht
    · cases ht; rfl
    · exact readWindata_mem ht
  | staleTimerExpiry =>
    rw [exec, execStaleTimerExpiry] at ht
    exact lineEvent_mem ht rfl
  | registerWrite offset v =>
    have hr : registerAt offset = none := by simpa [writtenRegister] using hwrites
    rw [exec_registerWrite_of_no_register hr] at ht
    cases ht
    rfl
  | unknownCommand | windataWrite | winselWrite | winofsWrite | cntselWrite | intenWrite | divlWrite | divhWrite
  | hiwatWrite | lowatWrite | rxtrigWrite | staleWrite => cases hwrites
  | _ => simp [movesLine, commandRows] at hrest

/-- A row whose operands are its own writes WINDATA under the name WINDATA_WRITE alone (R188, log 9). -/
theorem windataWrite_of_wf {v : Byte} (hwf : c.wf = true) (hc : writtenRegister c = some (.windata, v)) :
    c = .windataWrite v := by
  cases c with
  | windataWrite w => cases hc; rfl
  | registerWrite offset w =>
    obtain ⟨r, hr, hrv⟩ := Option.map_eq_some_iff.mp hc
    cases hrv
    simp [Instr.wf, isOtherWrite, hr, Register.hasOwnWriteRow] at hwf
  | _ => simp [writtenRegister] at hc

/-- Settles O15: each row by what it does to message memory. -/
theorem onlyWindowAndReceptionWriteMemory : Obligations.OnlyWindowAndReceptionWriteMemory := by
  intro c s t hwf ht hwindow hcharacter hpower
  cases hwrites : writtenRegister c with
  | none => exact exec_mem_of_no_write hwrites hcharacter hpower ht
  | some written =>
    obtain ⟨r, v⟩ := written
    rcases exec_write_cases hwrites ht with rfl | hw
    · rfl
    · exact writeRegister_mem (by rintro rfl; exact hwindow v (windataWrite_of_wf hwf hwrites)) hw

/-! ### Every step -/

/-- Every row stores at most one byte, but for power-up, which clears message memory (R47). -/
theorem storesAtMostOne_exec (hpower : c ≠ .powerUp) (ht : exec c s = .next t) : StoresAtMostOne s t := by
  by_cases hcharacter : ∃ v b, c = .characterReceived v b
  · obtain ⟨v, b, rfl⟩ := hcharacter
    exact storesAtMostOne_characterReceived ht
  cases hwrites : writtenRegister c with
  | none => exact .inl (exec_mem_of_no_write hwrites (by simpa using hcharacter) hpower ht)
  | some written =>
    obtain ⟨r, v⟩ := written
    rcases exec_write_cases hwrites ht with rfl | hw
    · exact .inl rfl
    by_cases hr : r = .windata
    · subst hr; exact storesAtMostOne_writeWindata hw
    · exact .inl (writeRegister_mem hr hw)

theorem idle_mem (s : State) : (idle s).bp.mem = s.bp.mem := by
  unfold idle bitTime tickLine
  split
  · split
    · rfl
    · dsimp only
      split
      · rfl
      · split <;> rfl
  · rfl

/-- Settles O6: a byte is stored at an address of message memory, and power-up lists none. -/
theorem memoryStaysCanonical : Obligations.MemoryStaysCanonical := by
  intro s t hw ht
  unfold step at ht
  split at ht
  · cases ht; rwa [idle_mem]
  · next c rest _ =>
    by_cases hpower : c = .powerUp
    · subst hpower; cases ht; rfl
    · exact StoresAtMostOne.wf (s := { s with pending := rest }) (storesAtMostOne_exec hpower ht) hw

end Sys2Proof.Machine
end

section
/-! SUPPORT. The resets from every state (R47, R177, R200). -/

namespace Sys2Proof.Machine

open Sys2Proof

/-- Settles O4: each row names the state it leaves, and an empty list of cells reads as 00h. -/
theorem resetRows : Obligations.ResetRows := fun _ => ⟨rfl, rfl, rfl, fun _ => rfl⟩

end Sys2Proof.Machine
end

section
/-! SUPPORT. The characters from the fourth on (R54, R55, R100, R104, R105): LENGTH and its claim, REASON, the payload,
the list, and the first CHECK character. -/

namespace Sys2Proof.Machine

open Sys2Proof

variable {b v : Byte} {stop : LineBit} {s t u : State} {r x : Rx} {a : Nat}

/-! ### The fourth character -/

theorem takeFourth_of_response (hk : x.kind = .ack ∨ x.kind = .busy) :
    takeFourth b x s = { s with fr := { s.fr with mode := .check, record := some { x with reason := b } } } := by
  rcases hk with hk | hk <;> simp only [takeFourth, hk] <;> rfl

theorem takeFourth_of_ready (hk : x.kind = .ready) (hb : b.toNat ≤ 16) :
    takeFourth b x s = enterBody b.toNat (setRecord { x with length := b.toNat } s) := by
  simp only [takeFourth, hk]
  exact if_neg (Nat.not_lt.mpr hb)

theorem takeFourth_of_unaccepted (hk : x.kind = .data ∨ x.kind = .datagram) (hacc : x.accepted = none)
    (hb : b.toNat ≤ 240) : takeFourth b x s = enterBody b.toNat (setRecord { x with length := b.toNat } s) := by
  rcases hk with hk | hk <;> simp only [takeFourth, hk, hacc] <;> exact if_neg (Nat.not_lt.mpr hb)

theorem takeFourth_of_accepted {sort : DestSort} (hk : x.kind = .data ∨ x.kind = .datagram)
    (hacc : x.accepted = some sort) (hb : b.toNat ≤ 240) :
    takeFourth b x s = enterBody b.toNat (claimReception { x with length := b.toNat } s) := by
  rcases hk with hk | hk <;> simp only [takeFourth, hk, hacc] <;> exact if_neg (Nat.not_lt.mpr hb)

theorem claimReception_succeeds (hfree : blocksFor x.length ≤ s.bp.free.length) (hroom : s.rq.entries.length < 24) :
    claimReception x s =
      setRecord { x with claim := .succeeded, chain := s.bp.free.take (blocksFor x.length) }
        (claimBlocks (blocksFor x.length) s) :=
  if_pos ⟨hfree, hroom⟩

theorem claimReception_fails (h : s.bp.free.length < blocksFor x.length ∨ 24 ≤ s.rq.entries.length) :
    claimReception x s = setRecord { x with claim := .failed } s := by
  refine if_neg fun hc => ?_
  obtain ⟨hfree, hroom⟩ : blocksFor x.length ≤ s.bp.free.length ∧ s.rq.entries.length < 24 := hc
  omega

/-- The fourth character that arrives is LENGTH, or the REASON of a response. -/
theorem exec_characterReceived_fourth (h : CharacterArrives v stop s r b .recessive u) (hm : s.fr.mode = .header)
    (hc : r.count = 3) :
    exec (.characterReceived v stop) s = .next (takeFourth b (r.covered b) (headerCounted b r u)) := by
  rw [exec_characterReceived_header h hm, takeHeader_of_fourth hc]

/-- Settles O47: the fourth character by the kind of the frame and its acceptance, and the claim by its test. -/
theorem lengthMakesTheClaim : Obligations.LengthMakesTheClaim := by
  rintro v stop s u r b q h hm hc rfl
  obtain ⟨hfr, _, _, hbp, hrq, _⟩ := h.keeps
  rw [exec_characterReceived_fourth h hm hc]
  have hcovered : r.covered b = { r with count := 4, inChar := false, leadBits := [], crc := crcByte r.crc b } := by
    simp [Rx.covered, Rx.counted, hc]
  refine ⟨fun sort hk hacc hb => ⟨fun hfree hroom => ?_, fun hlacks => ?_⟩, ?_, fun hk => ?_⟩
  · rw [takeFourth_of_accepted (x := r.covered b) hk hacc hb,
      claimReception_succeeds (by simpa [headerCounted, hbp] using hfree) (by simpa [headerCounted, hrq] using hroom),
      hcovered, ← hbp]
    rfl
  · rw [takeFourth_of_accepted (x := r.covered b) hk hacc hb,
      claimReception_fails (by simpa [headerCounted, hbp, hrq] using hlacks), hcovered]
    rfl
  · rintro (⟨hk, hacc, hb⟩ | ⟨hk, hb⟩)
    · rw [takeFourth_of_unaccepted (x := r.covered b) hk hacc hb, hcovered]
      rfl
    · rw [takeFourth_of_ready (x := r.covered b) hk hb, hcovered]
      rfl
  · rw [takeFourth_of_response (x := r.covered b) hk, hcovered]
    rfl

/-! ### The characters of BODY, and the first of CHECK -/

/-- FR after a character of BODY that leaves the record `x`: in CHECK when it was the last (R105). -/
def bodyTaken (x : Rx) (s : State) : State :=
  { s with fr := { s.fr with mode := if x.length + 4 ≤ x.count then .check else .body, record := some x } }

theorem bodyDone_setRecord {y : Rx} (hm : s.fr.mode = .body) (hlength : y.length = x.length)
    (hcount : y.count = x.count) : bodyDone y (setRecord x s) = bodyTaken x s := by
  unfold bodyDone bodyTaken
  rw [hlength, hcount]
  split
  · rfl
  · simp [setRecord, ← hm]

theorem takeBody_of_ready (hm : s.fr.mode = .body) (hk : x.kind = .ready) :
    takeBody b x s = some (bodyTaken { x with list := x.list ++ [b] } s) := by
  simp only [takeBody, hk, bodyDone_setRecord hm]

theorem takeBody_of_unclaimed (hm : s.fr.mode = .body) (hk : x.kind = .data ∨ x.kind = .datagram)
    (hclaim : x.claim ≠ .succeeded) : takeBody b x s = some (bodyTaken x s) := by
  unfold takeBody
  split
  · simp_all
  · rw [if_neg hclaim, bodyDone_setRecord hm rfl rfl]

theorem takeBody_of_claimed (hm : s.fr.mode = .body) (hk : x.kind = .data ∨ x.kind = .datagram)
    (hclaim : x.claim = .succeeded) (ha : messageAddress x.chain x.received = some a) :
    takeBody b x s = some (bodyTaken { x with received := x.received + 1 }
      { s with bp := { s.bp with mem := Memory.write s.bp.mem a b } }) := by
  unfold takeBody
  split
  · simp_all
  · rw [if_pos hclaim, storeMessageByte, ha]
    exact congrArg some (bodyDone_setRecord hm rfl rfl)

/-- A character of BODY that arrives is taken with its record counted and its check register run on (R99). -/
theorem exec_characterReceived_body (h : CharacterArrives v stop s r b .recessive u) (hm : s.fr.mode = .body)
    (ht : takeBody b (r.covered b) (headerCounted b r u) = some t) :
    exec (.characterReceived v stop) s = .next t := by
  have hu : u.fr.mode = .body := by rw [h.keeps.1, hm]
  have hcomplete : takeComplete b r { u with lac := { u.lac with quiet := quietAtStop b .recessive } } = some t := by
    simp only [takeComplete, hu]
    exact ht
  rw [(exec_characterReceived_arrives h (by rw [hm]; rfl)).2 rfl, hcomplete]

/-- The first CHECK character is kept beside the register (R105). -/
theorem takeCheck_first (hc : x.count = (match x.kind with | .ack | .busy => 5 | _ => x.length + 5)) :
    takeCheck b x s = setRecord { x with checkHigh := b } s := by
  cases hk : x.kind <;> simp only [takeCheck, hk] at hc ⊢ <;> exact if_pos hc.le

/-- Settles O48: a character of BODY by the kind of the frame and its claim, and the first CHECK character. -/
theorem payloadIsStoredAtItsOffset : Obligations.PayloadIsStoredAtItsOffset := by
  rintro v stop s u r r' b q m h rfl rfl rfl
  obtain ⟨hfr, _, _, hbp, _⟩ := h.keeps
  have hbody (hm : s.fr.mode = .body) : (headerCounted b r u).fr.mode = .body := by simp [headerCounted, hfr, hm]
  refine ⟨fun a hm hk hclaim hwf ha => ?_, fun hm hk hclaim => ?_, fun hm hk => ?_, fun hm hc => ?_⟩
  · refine ⟨_, exec_characterReceived_body h hm (takeBody_of_claimed (x := r.covered b) (hbody hm) hk hclaim ha),
      rfl, ?_, fun x hx => ?_⟩
    · exact Memory.read_write_same (low := 0) (by simpa [headerCounted, hbp, Memory.wf] using hwf)
    · simpa [bodyTaken, headerCounted, hbp] using Memory.read_write_other hx s.bp.mem
  · exact exec_characterReceived_body h hm (takeBody_of_unclaimed (x := r.covered b) (hbody hm) hk hclaim)
  · exact exec_characterReceived_body h hm (takeBody_of_ready (x := r.covered b) (hbody hm) hk)
  · have hu : u.fr.mode = .check := by rw [hfr, hm]
    have hfirst : r.counted.count = (match r.counted.kind with | .ack | .busy => 5 | _ => r.counted.length + 5) := by
      cases hk : r.kind <;> simp_all [Rx.counted]
    rw [(exec_characterReceived_arrives h (by rw [hm]; rfl)).2 rfl]
    have hcomplete : takeComplete b r { u with lac := { u.lac with quiet := quietAtStop b .recessive } } =
        some (takeCheck b r.counted (setRecord r.counted
          { u with lac := { u.lac with quiet := quietAtStop b .recessive } })) := by
      simp only [takeComplete, hu]
      rfl
    rw [hcomplete, takeCheck_first hfirst]
    rfl

end Sys2Proof.Machine
end

section
/-! SUPPORT. Who holds each block (R48) and how long each chain is (R50), by counting: the four holders, the chains of
the slots, and what every operation on a slot may do with them. -/

namespace Sys2Proof.Machine

open Sys2Proof

variable {s t u : State} {n : SlotId} {sl sl' : Slot}

/-! ### The holders of a block -/

/-- The chain of a slot; a FREE slot has none (R64). -/
def slotChain : Option Slot → List Block
  | none => []
  | some sl => sl.chain

theorem slotBlocks_eq (s : State) : slotBlocks s = allSlots.flatMap fun n => slotChain (slotAt s n) := by
  unfold slotBlocks
  refine congrArg (allSlots.flatMap ·) (funext fun n => ?_)
  cases slotAt s n <;> rfl

theorem count_slotBlocks (b : Block) (s : State) :
    (slotBlocks s).count b = ∑ n : SlotId, (slotChain (slotAt s n)).count b := by
  rw [slotBlocks_eq, List.count_flatMap, Fin.sum_univ_def]
  rfl

/-- Where one slot alone differs, the blocks of the slots differ by its chain. -/
theorem count_slotBlocks_of_slot (h : ∀ m, m ≠ n → slotAt t m = slotAt s m) (b : Block) :
    (slotBlocks t).count b + (slotChain (slotAt s n)).count b =
      (slotBlocks s).count b + (slotChain (slotAt t n)).count b := by
  have hrest : ∑ m ∈ Finset.univ.erase n, (slotChain (slotAt t m)).count b =
      ∑ m ∈ Finset.univ.erase n, (slotChain (slotAt s m)).count b :=
    Finset.sum_congr rfl fun m hm => by rw [h m (Finset.ne_of_mem_erase hm)]
  rw [count_slotBlocks, count_slotBlocks, ← Finset.add_sum_erase _ _ (Finset.mem_univ n),
    ← Finset.add_sum_erase (Finset.univ : Finset SlotId) (fun m => (slotChain (slotAt s m)).count b)
      (Finset.mem_univ n)]
  omega

/-- How often a block is held. -/
def holders (b : Block) (s : State) : Nat := (heldBlocks s).count b

theorem holders_eq (b : Block) (s : State) :
    holders b s = s.bp.free.count b + (slotBlocks s).count b + (entryBlocks s.rq.entries).count b
      + (recordBlocks s).count b := by
  simp only [holders, heldBlocks, List.count_append]

theorem blockLaw_iff : BlockLaw s ↔ ReceptionLaw s ∧ DoneLaw s ∧ ∀ b, holders b s = 1 := by
  have hall : (heldBlocks s).Perm (List.finRange 128) ↔ ∀ b, holders b s = 1 := by
    rw [List.perm_iff_count]
    refine forall_congr' fun b => ?_
    rw [List.count_eq_one_of_mem (List.nodup_finRange 128) (List.mem_finRange b), holders]
  rw [BlockLaw, hall]

/-! ### The slots -/

/-- Every chain of a slot that is not DONE has the blocks of its length (R50). -/
def SlotsFit (s : State) : Prop :=
  ∀ n sl, slotAt s n = some sl → sl.phase.outcome = none → sl.chain.length = blocksFor sl.length

/-- The chain, the length and the outcome stand. -/
structure Slot.KeepsChain (sl sl' : Slot) : Prop where
  chain : sl'.chain = sl.chain
  length : sl'.length = sl.length
  outcome : sl'.phase.outcome = sl.phase.outcome

/-- A record as both laws want it: DONE with no chain, or with the chain that its length needs (R65, R50). -/
def Slot.Sound (sl : Slot) : Prop :=
  (sl.phase.outcome.isSome → sl.chain = []) ∧ (sl.phase.outcome = none → sl.chain.length = blocksFor sl.length)

/-- Every slot of `t` is sound or has the chain that it had in `s`. -/
def SlotsFollow (s t : State) : Prop :=
  ∀ n sl', slotAt t n = some sl' → sl'.Sound ∨ ∃ sl, slotAt s n = some sl ∧ sl.KeepsChain sl'

theorem SlotsFollow.trans (h : SlotsFollow s u) (k : SlotsFollow u t) : SlotsFollow s t := by
  intro n sl' hs'
  rcases k n sl' hs' with hsound | ⟨sl, hs, hk⟩
  · exact .inl hsound
  rcases h n sl hs with hsound | ⟨sl0, hs0, hh⟩
  · refine .inl ⟨fun ho => ?_, fun ho => ?_⟩
    · rw [hk.chain, hsound.1 (by rwa [← hk.outcome])]
    · rw [hk.chain, hk.length, hsound.2 (by rwa [← hk.outcome])]
  · exact .inr ⟨sl0, hs0, hk.chain.trans hh.chain, hk.length.trans hh.length, hk.outcome.trans hh.outcome⟩

theorem SlotsFollow.doneLaw (h : SlotsFollow s t) (hs : DoneLaw s) : DoneLaw t := by
  intro n sl' hs' ho
  rcases h n sl' hs' with hsound | ⟨sl, hsl, hk⟩
  · exact hsound.1 ho
  · rw [hk.chain, hs n sl hsl (by rwa [← hk.outcome])]

theorem SlotsFollow.slotsFit (h : SlotsFollow s t) (hs : SlotsFit s) : SlotsFit t := by
  intro n sl' hs' ho
  rcases h n sl' hs' with hsound | ⟨sl, hsl, hk⟩
  · exact hsound.2 ho
  · rw [hk.chain, hk.length, hs n sl hsl (by rwa [← hk.outcome])]

theorem slotsFollow_of_slots (h : t.ts.slots = s.ts.slots) : SlotsFollow s t := fun n sl' hs' =>
  .inr ⟨sl', by rwa [← slotAt_congr h], rfl, rfl, rfl⟩

/-- From `s` to `t` the slots and the free list at most give each other blocks. -/
structure SlotsSettle (s t : State) : Prop where
  follow : SlotsFollow s t
  pool : DoneLaw s → ∀ b, t.bp.free.count b + (slotBlocks t).count b = s.bp.free.count b + (slotBlocks s).count b

theorem SlotsSettle.trans (h : SlotsSettle s u) (k : SlotsSettle u t) : SlotsSettle s t :=
  ⟨h.follow.trans k.follow, fun hd b => (k.pool (h.follow.doneLaw hd) b).trans (h.pool hd b)⟩

theorem slotsSettle_of_same (hslots : t.ts.slots = s.ts.slots) (hfree : t.bp.free = s.bp.free) : SlotsSettle s t :=
  ⟨slotsFollow_of_slots hslots, fun _ b => by
    simp only [count_slotBlocks, slotAt_congr hslots, hfree]⟩

theorem SlotsSettle.refl (s : State) : SlotsSettle s s := slotsSettle_of_same rfl rfl

theorem SlotsSettle.after (h : SlotsSettle s u) (hslots : t.ts.slots = u.ts.slots) (hfree : t.bp.free = u.bp.free) :
    SlotsSettle s t := h.trans (slotsSettle_of_same hslots hfree)

theorem SlotsSettle.before (h : SlotsSettle u t) (hslots : u.ts.slots = s.ts.slots) (hfree : u.bp.free = s.bp.free) :
    SlotsSettle s t := (slotsSettle_of_same hslots hfree).trans h

/-- One slot's record is replaced, and the free list takes the blocks that it gives up. -/
theorem slotsSettle_replace {r : Option Slot} (hslots : t.ts.slots = s.ts.slots.set n r)
    (hr : ∀ sl', r = some sl' → sl'.Sound ∨ ∃ sl, slotAt s n = some sl ∧ sl.KeepsChain sl')
    (hpool : DoneLaw s → ∀ b, t.bp.free.count b + (slotChain r).count b =
      s.bp.free.count b + (slotChain (slotAt s n)).count b) : SlotsSettle s t := by
  have hat (m : SlotId) : slotAt t m = if n = m then r else slotAt s m := by
    rw [← slotAt_setSlot]
    exact slotAt_congr hslots m
  refine ⟨fun m sl' hm => ?_, fun hd b => ?_⟩
  · rw [hat] at hm
    split at hm
    · next hn => subst hn; exact hr sl' hm
    · exact .inr ⟨sl', hm, rfl, rfl, rfl⟩
  · have hcount := count_slotBlocks_of_slot (s := s) (t := t) (n := n)
      (fun m hm => by rw [hat, if_neg (Ne.symm hm)]) b
    rw [hat n, if_pos rfl] at hcount
    have := hpool hd b
    omega

/-- A slot's record is rewritten with its chain. -/
theorem slotsSettle_rewrite (hs : slotAt s n = some sl) (hk : sl.KeepsChain sl')
    (hslots : t.ts.slots = s.ts.slots.set n (some sl')) (hfree : t.bp.free = s.bp.free) : SlotsSettle s t :=
  slotsSettle_replace hslots (by rintro _ ⟨⟩; exact .inr ⟨sl, hs, hk⟩)
    fun _ b => by simp only [hfree, hs, slotChain, hk.chain]

/-! ### A re-evaluation -/

theorem Slot.settled_outcome (sl : Slot) : sl.settled.phase.outcome = sl.phase.outcome := by
  cases hp : sl.phase <;> simp [Slot.settled, hp, SlotPhase.outcome]

/-- A slot that is presented or goes back keeps its chain (R75). -/
theorem slotsSettle_of_sameButOffer (h : SameButOffer s t) : SlotsSettle s t := by
  obtain ⟨hslots, ht⟩ := h
  have hkeeps (m : SlotId) (sl' : Slot) (hm : slotAt t m = some sl') :
      ∃ sl, slotAt s m = some sl ∧ sl.KeepsChain sl' := by
    have hsettled := hslots m
    rw [hm, Option.map_some, eq_comm, Option.map_eq_some_iff] at hsettled
    obtain ⟨sl, hs, he⟩ := hsettled
    refine ⟨sl, hs, ?_, ?_, ?_⟩
    · exact (congrArg Slot.chain he).symm
    · exact (congrArg Slot.length he).symm
    · rw [← Slot.settled_outcome, ← he, Slot.settled_outcome]
  refine ⟨fun m sl' hm => .inr (hkeeps m sl' hm), fun _ b => ?_⟩
  have hchain (m : SlotId) : slotChain (slotAt t m) = slotChain (slotAt s m) := by
    cases hm : slotAt t m with
    | none =>
      have hnone := hslots m
      rw [hm, Option.map_none, eq_comm, Option.map_eq_none_iff] at hnone
      rw [hnone]
    | some sl' =>
      obtain ⟨sl, hs, hk⟩ := hkeeps m sl' hm
      rw [hs, slotChain, slotChain, hk.chain]
  have hfree : t.bp.free = s.bp.free := by rw [ht]
  simp only [count_slotBlocks, hchain, hfree]

theorem slotsSettle_reevaluate (s : State) : SlotsSettle s (reevaluate s) :=
  slotsSettle_of_sameButOffer (reevaluate_spec s).1

theorem slotsSettle_withdrawOffer (s : State) : SlotsSettle s (withdrawOffer s) :=
  slotsSettle_of_sameButOffer (withdrawOffer_spec s).1

/-! ### The ends of an attempt -/

/-- The chain of a slot that becomes DONE joins the free list (R84). -/
theorem slotsSettle_completeSlot (hs : slotAt s n = some sl) (hchain : sl'.chain = sl.chain) (o : SlotOutcome) :
    SlotsSettle s (completeSlot n o sl' s) := by
  refine slotsSettle_replace (completeSlot_slots n o sl' s) ?_ fun _ b => ?_
  · rintro _ ⟨⟩
    exact .inl ⟨fun _ => rfl, fun ho => by cases ho⟩
  · simp [completeSlot, hs, slotChain, hchain]

/-- A slot goes back to its class queue with its chain (R69). -/
theorem slotsSettle_requeueFront (hs : slotAt s n = some sl) (hp : sl.phase.outcome = none)
    (hchain : sl'.chain = sl.chain) (hlength : sl'.length = sl.length) : SlotsSettle s (requeueFront n sl' s) :=
  slotsSettle_rewrite hs (by exact ⟨hchain, hlength, hp.symm⟩) (requeueFront_slots n sl' s) (by simp)

theorem slotsSettle_failOrRetry (hs : slotAt s n = some sl) (hp : sl.phase.outcome = none)
    (hchain : sl'.chain = sl.chain) (hlength : sl'.length = sl.length) : SlotsSettle s (failOrRetry n sl' s) := by
  unfold failOrRetry
  split
  · exact slotsSettle_completeSlot hs hchain _
  · exact slotsSettle_requeueFront hs hp hchain hlength

/-- A slot in a phase without an outcome is not DONE. -/
theorem slotWhen_not_done {p : SlotPhase} (hp : p.outcome = none) (hw : slotWhen s p n = some sl) :
    slotAt s n = some sl ∧ sl.phase.outcome = none := by
  obtain ⟨hs, rfl⟩ := slotWhen_eq_some.mp hw
  exact ⟨hs, hp⟩

theorem slotsSettle_endUnanswered (n : SlotId) (s : State) : SlotsSettle s (endUnanswered n s) := by
  unfold endUnanswered
  split
  · exact .refl s
  · next sl hw =>
    obtain ⟨hs, hp⟩ := slotWhen_not_done rfl hw
    dsimp only
    split
    · exact slotsSettle_completeSlot hs (by rfl) _
    · exact slotsSettle_failOrRetry hs hp (by rfl) (by rfl)

theorem slotsSettle_endEchoFault (n : SlotId) (s : State) : SlotsSettle s (endEchoFault n s) := by
  unfold endEchoFault
  split
  · exact .refl s
  · next sl hw =>
    obtain ⟨hs, hp⟩ := slotWhen_not_done rfl hw
    exact slotsSettle_failOrRetry hs hp (by rfl) (by rfl)

theorem slotsSettle_endCut (n : SlotId) (s : State) : SlotsSettle s (endCut n s) := by
  unfold endCut
  split
  · exact .refl s
  · next sl hw =>
    obtain ⟨hs, hp⟩ := slotWhen_not_done rfl hw
    exact slotsSettle_requeueFront hs hp (by rfl) (by rfl)

theorem slotsSettle_endAborted (n : SlotId) (s : State) : SlotsSettle s (endAborted n s) := by
  unfold endAborted
  split
  · exact .refl s
  · next sl hw => exact slotsSettle_completeSlot (slotWhen_not_done rfl hw).1 rfl _

theorem slotsSettle_takeNoResponse (n : SlotId) (s : State) : SlotsSettle s (takeNoResponse n s) :=
  (slotsSettle_endUnanswered n s).trans (slotsSettle_reevaluate _)

theorem slotsSettle_takeAck (n : SlotId) (s : State) : SlotsSettle s (takeAck n s) := by
  unfold takeAck
  split
  · exact .refl s
  · next sl hw =>
    have hs : slotAt (ackPeer sl.dest s) n = some sl := (slotWhen_not_done rfl hw).1
    exact ((slotsSettle_completeSlot hs (by rfl) _).trans (slotsSettle_reevaluate _)).before rfl rfl

theorem slotsSettle_takeBusy (n : SlotId) (v : Byte) (s : State) : SlotsSettle s (takeBusy n v s) := by
  unfold takeBusy
  split
  · exact .refl s
  · next sl hw =>
    obtain ⟨hs, hp⟩ := slotWhen_not_done rfl hw
    replace hs : slotAt (busyPeer sl.dest s) n = some sl := hs
    refine SlotsSettle.trans ?_ (slotsSettle_reevaluate _)
    refine SlotsSettle.before (u := busyPeer sl.dest s) ?_ rfl rfl
    split
    · exact slotsSettle_completeSlot hs (by rfl) _
    split
    · exact slotsSettle_completeSlot hs (by rfl) _
    · exact slotsSettle_requeueFront hs hp (by rfl) (by rfl)

/-! ### The window, the candidate and remote busy -/

theorem slotsSettle_failCandidate (s : State) : SlotsSettle s (failCandidate s) := by
  unfold failCandidate
  split
  · exact .refl s
  · exact slotsSettle_takeNoResponse _ s

theorem slotsSettle_judgeCandidate (r : Rx) (s : State) : SlotsSettle s (judgeCandidate r s) := by
  unfold judgeCandidate
  split
  · exact .refl s
  split
  · exact .refl s
  split
  · split
    · exact slotsSettle_takeAck _ s
    · exact slotsSettle_takeBusy _ _ s
  · exact slotsSettle_takeNoResponse _ s

theorem slotsSettle_reportCandidate (how : Ending) (r : Rx) (s : State) :
    SlotsSettle s (reportCandidate how r s) := by
  unfold reportCandidate
  split
  · exact slotsSettle_judgeCandidate r s
  · exact slotsSettle_failCandidate s

theorem slotsSettle_releasePeer (node : Nat) (s : State) : SlotsSettle s (releasePeer node s) := by
  exact (slotsSettle_reevaluate _).before rfl rfl

theorem slotsSettle_closeAtDeadline (s : State) : SlotsSettle s (closeAtDeadline s) := by
  unfold closeAtDeadline
  split
  · exact .refl s
  · exact (slotsSettle_takeNoResponse _ _).before rfl rfl

/-! ### The READY notice and congestion -/

theorem slotsSettle_buildNotice (s : State) : SlotsSettle s (buildNotice s) := by
  unfold buildNotice
  split
  · exact .refl s
  · exact (slotsSettle_reevaluate _).before rfl rfl

theorem slotsSettle_testExit (s : State) : SlotsSettle s (testExit s) := by
  unfold testExit leaveCongestion
  split
  · dsimp only
    split
    · exact slotsSettle_of_same rfl rfl
    · exact (slotsSettle_buildNotice _).before rfl rfl
  · exact .refl s

theorem slotsSettle_testMarks (s : State) : SlotsSettle s (testMarks s) := by
  unfold testMarks
  split
  · exact slotsSettle_testExit s
  · exact slotsSettle_of_same (by simp) (by simp)

end Sys2Proof.Machine
end

section
/-! SUPPORT. The two laws of the chains (R48, R50) by their parts, and what the end of a reception makes of them: the
chain of the record goes to an entry or to the free list, all of it, once. -/

namespace Sys2Proof.Machine

open Sys2Proof

variable {s t u v : State} {r x : Rx}

/-! ### The laws by their parts -/

/-- Every entry has the blocks of its length (R50). -/
def EntriesFit (s : State) : Prop := ∀ e ∈ s.rq.entries, e.chain.length = blocksFor e.length

/-- The record, if there is one, fits its chain as far as it has come. -/
def RecordLaw (s : State) : Prop := ∀ r, s.fr.record = some r → RecordFits s.fr.mode r

theorem chainLaw_iff : ChainLaw s ↔ SlotsFit s ∧ EntriesFit s ∧ RecordLaw s := Iff.rfl

/-- From `s` to `t` each block keeps one holder and each chain the blocks of its length. -/
def KeepsChains (s t : State) : Prop := (BlockLaw s → BlockLaw t) ∧ (ChainLaw s → ChainLaw t)

theorem KeepsChains.refl (s : State) : KeepsChains s s := ⟨id, id⟩

theorem KeepsChains.trans (h : KeepsChains s u) (k : KeepsChains u t) : KeepsChains s t :=
  ⟨k.1 ∘ h.1, k.2 ∘ h.2⟩

theorem KeepsChains.after (k : KeepsChains u t) (h : KeepsChains s u) : KeepsChains s t := h.trans k

/-- The four holders of blocks stand: the slots, the free list, the entries, the record. -/
structure SameHeld (s t : State) : Prop where
  slots : t.ts.slots = s.ts.slots
  free : t.bp.free = s.bp.free
  entries : t.rq.entries = s.rq.entries
  record : t.fr.record = s.fr.record

theorem SameHeld.settle (h : SameHeld s t) : SlotsSettle s t := slotsSettle_of_same h.slots h.free

theorem recordBlocks_congr (h : t.fr.record = s.fr.record) : recordBlocks t = recordBlocks s := by
  unfold recordBlocks
  rw [h]

theorem recordBlocks_of_none (h : s.fr.record = none) : recordBlocks s = [] := by
  simp only [recordBlocks, h]

theorem recordBlocks_of_some (h : s.fr.record = some r) : recordBlocks s = r.chain := by
  simp only [recordBlocks, h]

/-- Where the slots settle with the free list, a block is held as often as the entries and the record hold it. -/
theorem SlotsSettle.holders (h : SlotsSettle s t) (hd : DoneLaw s) (hentries : t.rq.entries = s.rq.entries)
    (b : Block) : holders b t + (recordBlocks s).count b = holders b s + (recordBlocks t).count b := by
  have := h.pool hd b
  rw [holders_eq, holders_eq, hentries]
  omega

theorem SlotsSettle.holders_stand (h : SlotsSettle s t) (hd : DoneLaw s) (hentries : t.rq.entries = s.rq.entries)
    (hrecord : t.fr.record = s.fr.record) (b : Block) : Machine.holders b t = Machine.holders b s := by
  have := h.holders hd hentries b
  rw [recordBlocks_congr hrecord] at this
  omega

theorem EntriesFit.of_entries (h : EntriesFit s) (hentries : t.rq.entries = s.rq.entries) : EntriesFit t := by
  rwa [EntriesFit, hentries]

theorem receptionLaw_of_no_record (h : s.fr.record = none) : ReceptionLaw s :=
  ⟨fun _ => h, fun _ => h, fun r hr => by rw [h] at hr; cases hr⟩

theorem recordLaw_of_no_record (h : s.fr.record = none) : RecordLaw s := fun r hr => by
  rw [h] at hr
  cases hr

/-- A record that is neither in HEADER nor in BODY fits as it did, whatever the receiver state was. -/
theorem RecordFits.of_mode {m m' : FrMode} (h : RecordFits m r) (hm : m' = m ∨ m' ≠ .header ∧ m' ≠ .body) :
    RecordFits m' r := by
  rcases hm with rfl | ⟨hheader, hbody⟩
  · exact h
  · refine ⟨fun he => absurd he hheader, fun hclaim => ?_⟩
    obtain ⟨hchain, hreceived, hkind, _⟩ := h.2 hclaim
    exact ⟨hchain, hreceived, hkind, fun he => absurd he hbody⟩

/-- Slots settle, and the receiver moves on with its record, or stands without one. -/
theorem keepsChains_of_mode (h : SlotsSettle s t) (hentries : t.rq.entries = s.rq.entries)
    (hrecord : t.fr.record = s.fr.record) (hstation : t.sc.station = .offline → s.sc.station = .offline)
    (hreceiving : t.fr.mode.receiving = false → s.fr.mode.receiving = false ∨ s.sc.station = .offline)
    (hmode : t.fr.mode = s.fr.mode ∨ t.fr.mode ≠ .header ∧ t.fr.mode ≠ .body) : KeepsChains s t := by
  constructor
  · rintro hs
    obtain ⟨⟨hquiet, hoffline, hkind⟩, hdone, hheld⟩ := blockLaw_iff.mp hs
    refine blockLaw_iff.mpr ⟨⟨fun hm => ?_, fun ho => ?_, fun r hr => ?_⟩, h.follow.doneLaw hdone, fun b => ?_⟩
    · exact hrecord.trans ((hreceiving hm).elim hquiet hoffline)
    · exact hrecord.trans (hoffline (hstation ho))
    · obtain ⟨hheader, hmessage⟩ := hkind r (hrecord ▸ hr)
      exact ⟨fun hm => hheader (hmode.elim (fun e => e ▸ hm) fun e => absurd hm e.1), hmessage⟩
    · rw [h.holders_stand hdone hentries hrecord, hheld]
  · intro hs
    obtain ⟨hslots, hfits, hlaw⟩ := chainLaw_iff.mp hs
    exact ⟨h.follow.slotsFit hslots, hfits.of_entries hentries,
      fun r hr => (hlaw r (hrecord ▸ hr)).of_mode hmode⟩

/-- Slots settle, and the reception stands. -/
theorem keepsChains_of_slots (h : SlotsSettle s t) (hentries : t.rq.entries = s.rq.entries)
    (hrecord : t.fr.record = s.fr.record) (hmode : t.fr.mode = s.fr.mode)
    (hstation : t.sc.station = .offline → s.sc.station = .offline) : KeepsChains s t :=
  keepsChains_of_mode h hentries hrecord hstation (fun hm => .inl (hmode ▸ hm)) (.inl hmode)

/-- Nothing that the laws look at has changed. -/
theorem keepsChains_of_same (h : SameHeld s t) (hmode : t.fr.mode = s.fr.mode)
    (hstation : t.sc.station = s.sc.station) : KeepsChains s t :=
  keepsChains_of_slots h.settle h.entries h.record hmode fun ho => hstation ▸ ho

theorem keepsChains_of_blocks (hts : t.ts = s.ts) (hbp : t.bp = s.bp) (hfr : t.fr = s.fr) (hrq : t.rq = s.rq)
    (hsc : t.sc = s.sc) : KeepsChains s t :=
  keepsChains_of_same ⟨by rw [hts], by rw [hbp], by rw [hrq], by rw [hfr]⟩ (by rw [hfr]) (by rw [hsc])

/-- The receiver has no record before or after, whatever its state. -/
theorem keepsChains_of_no_record (h : SlotsSettle s t) (hentries : t.rq.entries = s.rq.entries)
    (hs : s.fr.record = none) (ht : t.fr.record = none) : KeepsChains s t := by
  constructor
  · intro hlaw
    obtain ⟨_, hdone, hheld⟩ := blockLaw_iff.mp hlaw
    exact blockLaw_iff.mpr ⟨receptionLaw_of_no_record ht, h.follow.doneLaw hdone,
      fun b => (h.holders_stand hdone hentries (ht.trans hs.symm) b).trans (hheld b)⟩
  · intro hlaw
    obtain ⟨hslots, hfits, _⟩ := chainLaw_iff.mp hlaw
    exact ⟨h.follow.slotsFit hslots, hfits.of_entries hentries, recordLaw_of_no_record ht⟩

/-- Every block is free, as after the resets and CLEAR (R49, R177). -/
theorem keepsChains_of_reset (hslots : t.ts.slots = Ts.reset.slots) (hfree : t.bp.free = Bp.fullList)
    (hentries : t.rq.entries = []) (hrecord : t.fr.record = none) : KeepsChains s t := by
  have hreset : KeepsChains State.reset t :=
    keepsChains_of_no_record (slotsSettle_of_same hslots hfree) hentries rfl hrecord
  exact ⟨fun _ => hreset.1 blockLaw_reset, fun _ => hreset.2 chainLaw_reset⟩

/-! ### The record given up, opened, and counted on -/

/-- The slots settle, and the chain of the reception, which is abandoned, joins the free list (R61, R112). -/
theorem keepsChains_abandoned (h : SlotsSettle s u) (hentries : u.rq.entries = s.rq.entries)
    (hrecord : u.fr.record = s.fr.record) : KeepsChains s (abandonReception u) := by
  cases hr : u.fr.record with
  | none =>
    have hnone : abandonReception u = u := by simp only [abandonReception, hr]
    rw [hnone]
    exact keepsChains_of_no_record h hentries (hrecord ▸ hr) hr
  | some r =>
    have hfollow : SlotsFollow s (abandonReception u) := h.follow.trans (slotsFollow_of_slots (by simp))
    constructor
    · intro hlaw
      obtain ⟨_, hdone, hheld⟩ := blockLaw_iff.mp hlaw
      refine blockLaw_iff.mpr ⟨receptionLaw_of_no_record (by simp), hfollow.doneLaw hdone, fun b => ?_⟩
      rw [← hheld b, ← h.holders_stand hdone hentries hrecord b, holders_eq, holders_eq, recordBlocks_of_some hr,
        recordBlocks_of_none (by simp)]
      simp only [abandonReception, hr, count_slotBlocks, slotAt, releaseChain_free, releaseChain_ts, releaseChain_rq,
        List.count_append, List.count_nil]
      omega
    · intro hlaw
      obtain ⟨hslots, hfits, _⟩ := chainLaw_iff.mp hlaw
      exact ⟨hfollow.slotsFit hslots, hfits.of_entries (by simpa using hentries), recordLaw_of_no_record (by simp)⟩

theorem keepsChains_abandonReception (s : State) : KeepsChains s (abandonReception s) :=
  keepsChains_abandoned (.refl s) rfl rfl

/-- A record that is opened holds nothing yet, and none stood before it (R98). -/
theorem keepsChains_of_opened (h : SlotsSettle s t) (hentries : t.rq.entries = s.rq.entries)
    (hs : ReceptionLaw s → s.fr.record = none) (ht : t.fr.record = some x) (hmode : t.fr.mode = .header)
    (hchain : x.chain = []) (hfits : x.count ≤ 3 ∧ x.claim = .unclaimed ∧ x.received = 0)
    (hstation : t.sc.station ≠ .offline) : KeepsChains s t := by
  have hx {y : Rx} (hy : t.fr.record = some y) : y = x := (Option.some.inj (ht.symm.trans hy)).symm
  constructor
  · intro hlaw
    obtain ⟨hreception, hdone, hheld⟩ := blockLaw_iff.mp hlaw
    refine blockLaw_iff.mpr ⟨⟨fun hm => ?_, fun ho => absurd ho hstation, fun y hy => ?_⟩, h.follow.doneLaw hdone,
      fun b => ?_⟩
    · rw [hmode] at hm
      cases hm
    · obtain rfl := hx hy
      exact ⟨fun _ => hchain, fun hne => absurd hchain hne⟩
    · have := h.holders hdone hentries b
      rw [recordBlocks_of_none (hs hreception), recordBlocks_of_some ht, hchain] at this
      exact this.trans (hheld b)
  · intro hlaw
    obtain ⟨hslots, hentriesFit, _⟩ := chainLaw_iff.mp hlaw
    refine ⟨h.follow.slotsFit hslots, hentriesFit.of_entries hentries, fun y hy => ?_⟩
    obtain rfl := hx hy
    exact ⟨fun _ => hfits, fun hc => by rw [hfits.2.1] at hc; cases hc⟩

/-- What a claim rests on stands. -/
structure SameClaim (r x : Rx) : Prop where
  chain : x.chain = r.chain
  kind : x.kind = r.kind
  claim : x.claim = r.claim
  length : x.length = r.length
  received : x.received = r.received

/-- The record is replaced by one with the same blocks and a kind that may hold them. -/
theorem blockLaw_of_record (hr : s.fr.record = some r) (hx : t.fr.record = some x) (h : SlotsSettle s t)
    (hentries : t.rq.entries = s.rq.entries) (hstation : t.sc.station = s.sc.station)
    (hreceiving : s.fr.mode.receiving = true → t.fr.mode.receiving = true)
    (hmode : t.fr.mode = .header → s.fr.mode = .header) (hchain : x.chain = r.chain)
    (hkind : x.kind = r.kind ∨ s.fr.mode = .header) (hlaw : BlockLaw s) : BlockLaw t := by
  obtain ⟨⟨hquiet, hoffline, hrecord⟩, hdone, hheld⟩ := blockLaw_iff.mp hlaw
  obtain ⟨hheader, hmessage⟩ := hrecord r hr
  refine blockLaw_iff.mpr ⟨⟨fun hm => ?_, fun ho => ?_, fun y hy => ?_⟩, h.follow.doneLaw hdone, fun b => ?_⟩
  · have hnone := hquiet (Bool.eq_false_iff.mpr fun he => by rw [hreceiving he] at hm; cases hm)
    rw [hr] at hnone
    cases hnone
  · have hnone := hoffline (hstation ▸ ho)
    rw [hr] at hnone
    cases hnone
  · obtain rfl := Option.some.inj (hx.symm.trans hy)
    rw [hchain]
    refine ⟨fun hm => hheader (hmode hm), fun hne => ?_⟩
    rcases hkind with hkind | hm
    · rw [hkind]; exact hmessage hne
    · exact absurd (hheader hm) hne
  · have := h.holders hdone hentries b
    rw [recordBlocks_of_some hr, recordBlocks_of_some hx, hchain] at this
    have := hheld b
    omega

/-- The record is replaced by one that fits its chain. -/
theorem chainLaw_of_record (hx : t.fr.record = some x) (h : SlotsSettle s t) (hentries : t.rq.entries = s.rq.entries)
    (hfits : RecordLaw s → RecordFits t.fr.mode x) (hlaw : ChainLaw s) : ChainLaw t := by
  obtain ⟨hslots, hentriesFit, hrecord⟩ := chainLaw_iff.mp hlaw
  refine ⟨h.follow.slotsFit hslots, hentriesFit.of_entries hentries, fun y hy => ?_⟩
  obtain rfl := Option.some.inj (hx.symm.trans hy)
  exact hfits hrecord

/-! ### The chain of a record is handed on -/

/-- The claim of the record has the blocks of the length, and no more characters than it were received. -/
def Rx.Claims (r : Rx) : Prop :=
  r.claim = .succeeded → r.chain.length = blocksFor r.length ∧ r.received ≤ r.length

theorem RecordFits.claims {m : FrMode} (h : RecordFits m r) : r.Claims := fun hclaim =>
  ⟨(h.2 hclaim).1, (h.2 hclaim).2.1⟩

/-- From `s` to `t` the chain of `r`, which no holder of `s` has, is handed to an entry or to the free list. -/
structure Hands (r : Rx) (s t : State) : Prop where
  follow : SlotsFollow s t
  entries : r.Claims → EntriesFit s → EntriesFit t
  holders : DoneLaw s → (r.chain ≠ [] → r.kind = .data ∨ r.kind = .datagram) →
    ∀ b, holders b t = holders b s + r.chain.count b

theorem Hands.after (h : Hands r s u) (ht : SameHeld u t) : Hands r s t where
  follow := h.follow.trans (slotsFollow_of_slots ht.slots)
  entries hr hs := (h.entries hr hs).of_entries ht.entries
  holders hd hk b := (ht.settle.holders_stand (h.follow.doneLaw hd) ht.entries ht.record b).trans (h.holders hd hk b)

theorem Hands.before (h : Hands r u t) (hu : SameHeld s u) : Hands r s t where
  follow := (slotsFollow_of_slots hu.slots).trans h.follow
  entries hr hs := h.entries hr (hs.of_entries hu.entries)
  holders hd hk b := by
    have hfollow : SlotsFollow s u := slotsFollow_of_slots hu.slots
    rw [h.holders (hfollow.doneLaw hd) hk b, hu.settle.holders_stand hd hu.entries hu.record b]

/-- A response and a READY frame have no chain to hand on (R104). -/
theorem hands_of_no_message (hdata : r.kind ≠ .data) (hdatagram : r.kind ≠ .datagram) (h : SlotsSettle s t)
    (hentries : t.rq.entries = s.rq.entries) (hrecord : t.fr.record = s.fr.record) : Hands r s t where
  follow := h.follow
  entries _ hs := hs.of_entries hentries
  holders hd hk b := by
    have hnil : r.chain = [] := by
      by_contra hne
      exact (hk hne).elim hdata hdatagram
    rw [h.holders_stand hd hentries hrecord, hnil, List.count_nil, Nat.add_zero]

/-- The chain joins the free list (R56). -/
theorem hands_of_released (hslots : t.ts.slots = s.ts.slots) (hfree : t.bp.free = s.bp.free ++ r.chain)
    (hentries : t.rq.entries = s.rq.entries) (hrecord : t.fr.record = s.fr.record) : Hands r s t where
  follow := slotsFollow_of_slots hslots
  entries _ hs := hs.of_entries hentries
  holders _ _ b := by
    rw [holders_eq, holders_eq, hfree, hentries, recordBlocks_congr hrecord]
    simp only [count_slotBlocks, slotAt_congr hslots, List.count_append]
    omega

theorem appendEntry_entries (e : Entry) (s : State) :
    (appendEntry e s).rq.entries = s.rq.entries ++ [{ e with tags := { e.tags with lossBefore := s.rq.loss } }] := by
  rw [appendEntry_eq]

theorem blocksFor_mono {m n : Nat} (h : m ≤ n) : blocksFor m ≤ blocksFor n := by
  unfold blocksFor
  exact Nat.div_le_div_right (by omega)

/-- The chain goes to the entry as far as the entry's length needs it, and the rest to the free list (R56). -/
theorem hands_keepEntry {e : Entry} (hclaim : r.claim = .succeeded)
    (hlength : r.received ≤ r.length → e.length ≤ r.length) (s : State) : Hands r s (keepEntry e r.chain s) where
  follow := slotsFollow_of_slots (by simp)
  entries hr hs := by
    obtain ⟨hchain, hreceived⟩ := hr hclaim
    have hfew := blocksFor_mono (hlength hreceived)
    intro e' he'
    rw [keepEntry, appendEntry_entries, releaseChain_rq, List.mem_append, List.mem_singleton] at he'
    rcases he' with he' | rfl
    · exact hs e' he'
    · simp only [List.length_take]
      omega
  holders _ _ b := by
    have htake := congrArg (List.count b) (List.take_append_drop (blocksFor e.length) r.chain)
    rw [List.count_append] at htake
    have hslots : (keepEntry e r.chain s).ts.slots = s.ts.slots := by simp
    have hfree : (keepEntry e r.chain s).bp.free = s.bp.free ++ r.chain.drop (blocksFor e.length) := by simp [keepEntry]
    have hentries : entryBlocks (keepEntry e r.chain s).rq.entries =
        entryBlocks s.rq.entries ++ r.chain.take (blocksFor e.length) := by
      rw [keepEntry, appendEntry_entries]
      simp [entryBlocks]
    rw [holders_eq, holders_eq, hfree, hentries, recordBlocks_congr (s := s) (by simp)]
    simp only [count_slotBlocks, slotAt_congr hslots, List.count_append]
    omega

/-! ### A frame is dealt with -/

/-- The delivered frame is an entry of its whole length (R159). -/
theorem hands_deliver (p : Peer) (hclaim : r.claim = .succeeded) (s : State) : Hands r s (deliver p r s) := by
  have hkept := hands_keepEntry hclaim (fun _ => le_rfl)
    (e := entryOf r .own r.length none { Tags.none with adopted := !p.rxKnown && !r.resync })
    (withPeer r.src (fun q => { q with rxKnown := true, rxSeq := r.seq, rxResync := r.resync }) s)
  exact (hkept.before (by constructor <;> rfl)).after (by constructor <;> rfl)

/-- Each row of the decision table releases the chain, or delivers the frame (R157, R159). -/
theorem hands_decideRow (p : Peer) (r : Rx) (s : State) : Hands r s (decideRow p r s) := by
  unfold decideRow
  split
  · exact hands_of_released (by simp) (by simp) (by simp) (by simp)
  split
  · exact hands_of_released (by simp) (by simp) (by simp) (by simp)
  split
  · exact hands_of_released (by simp) (by simp) (by simp) (by simp)
  split
  · exact hands_of_released (by simp) (by simp) (by simp) (by simp)
  · next hclaim => exact hands_deliver p (not_not.mp hclaim) s

theorem hands_decideData (r : Rx) (s : State) : Hands r s (decideData r s) := by
  unfold decideData
  split
  · exact (hands_decideRow _ r _).before (by constructor <;> rfl)
  split
  · exact hands_of_released (by simp) (by simp) (by simp) (by simp)
  · next room _ =>
    have hrow := hands_decideRow (newPeer r.src) r { s with pt := newPeer r.src :: room }
    exact (hrow.before (by constructor <;> rfl)).after (by constructor <;> rfl)

theorem hands_queueGood (r : Rx) (sort : DestSort) (s : State) : Hands r s (queueGood r sort s) := by
  unfold queueGood
  split
  · next hclaim => exact hands_keepEntry hclaim (fun _ => le_rfl) s
  · exact hands_of_released rfl rfl rfl rfl

theorem hands_dealGood (r : Rx) (s : State) : Hands r s (dealGood r s) := by
  have hcounted : SameHeld s (countEvent .received s) := by constructor <;> rfl
  unfold dealGood
  split
  · next hk => exact hands_of_no_message (by simp [hk]) (by simp [hk]) (.refl s) rfl rfl
  · next hk => exact hands_of_no_message (by simp [hk]) (by simp [hk]) (.refl s) rfl rfl
  · next hk =>
    refine hands_of_no_message (by simp [hk]) (by simp [hk]) ?_ (by simp) (by simp)
    rcases takeReady_cases r s with e | e <;> rw [e]
    · exact .refl s
    · exact slotsSettle_releasePeer _ s
  · split
    · exact hands_of_released rfl rfl rfl rfl
    · dsimp only
      split
      · exact (hands_decideData r _).before hcounted
      · exact (hands_queueGood r _ _).before hcounted
  · split
    · exact hands_of_released rfl rfl rfl rfl
    · exact (hands_queueGood r _ _).before hcounted

theorem hands_dealDamaged (how : Ending) (m : FrMode) (r : Rx) (s : State) : Hands r s (dealDamaged how m r s) := by
  have hcounted : SameHeld s (countEvent .damaged s) := by constructor <;> rfl
  unfold dealDamaged
  dsimp only
  split
  · split
    · next hkept =>
      simp only [Bool.and_eq_true, beq_iff_eq] at hkept
      refine (hands_keepEntry hkept.1.2 (fun hreceived => ?_) _).before hcounted
      simp only [entryOf]
      split
      · exact le_rfl
      · exact hreceived
    · exact hands_of_released rfl rfl rfl rfl
  · exact hands_of_released rfl rfl rfl rfl

/-! ### The end of a reception -/

/-- The end of the reception of `r` from `s` to `t` in three parts: FR gives up its record while the slots settle, the
frame is dealt with from `v` to `w`, and the slots settle again (R106). -/
structure EndsBy (r : Rx) (s v w t : State) : Prop where
  givesUp : SlotsSettle s v
  entriesStand : v.rq.entries = s.rq.entries
  recordGone : v.fr.record = none
  hands : Hands r v w
  noRecord : w.fr.record = none
  settles : SlotsSettle w t
  entries : t.rq.entries = w.rq.entries
  record : t.fr.record = none

theorem endReception_endsBy (how : Ending) (hr : s.fr.record = some r) :
    ∃ v w, EndsBy r s v w (endReception how s) := by
  have hover : SlotsSettle s (leaveReceive (afterEnding how s)) :=
    slotsSettle_of_same (by simp [afterEnding]) (by simp [afterEnding])
  obtain ⟨v, hv⟩ : ∃ v, v = if r.candidate then reportCandidate how r (leaveReceive (afterEnding how s))
      else leaveReceive (afterEnding how s) := ⟨_, rfl⟩
  obtain ⟨w, hw⟩ : ∃ w, w = if how = .good then dealGood r v else dealDamaged how s.fr.mode r v := ⟨_, rfl⟩
  have hsettled : SlotsSettle s v := by
    rw [hv]
    split
    · exact hover.trans (slotsSettle_reportCandidate how r _)
    · exact hover
  have hentries : v.rq.entries = s.rq.entries := by rw [hv]; split <;> simp [afterEnding]
  have hrecord : v.fr.record = none := by rw [hv]; split <;> simp [afterEnding]
  have hdealt : Hands r v w ∧ w.fr.record = none := by
    rw [hw]
    split
    · exact ⟨hands_dealGood r v, by simpa using hrecord⟩
    · exact ⟨hands_dealDamaged how _ r v, by simpa using hrecord⟩
  obtain ⟨hhands, hnone⟩ := hdealt
  have hend : endReception how s = if s.lac.mode = .receive then reevaluate w else w := by
    simp only [endReception, hr, hw, hv]
  rw [hend]
  split
  · exact ⟨v, w, hsettled, hentries, hrecord, hhands, hnone, slotsSettle_reevaluate w, by simp, by simpa using hnone⟩
  · exact ⟨v, w, hsettled, hentries, hrecord, hhands, hnone, .refl w, rfl, hnone⟩

theorem endReception_of_no_record {how : Ending} (h : s.fr.record = none) : endReception how s = s := by
  simp only [endReception, h]

theorem endReception_record (how : Ending) (s : State) : (endReception how s).fr.record = none := by
  cases hr : s.fr.record with
  | none => rwa [endReception_of_no_record hr]
  | some r =>
    obtain ⟨_, _, hends⟩ := endReception_endsBy how hr
    exact hends.record

theorem blockLaw_endReception (h : BlockLaw s) (how : Ending) : BlockLaw (endReception how s) := by
  cases hr : s.fr.record with
  | none => rwa [endReception_of_no_record hr]
  | some r =>
    obtain ⟨v, w, hends⟩ := endReception_endsBy how hr
    obtain ⟨hreception, hdone, hheld⟩ := blockLaw_iff.mp h
    have hvdone := hends.givesUp.follow.doneLaw hdone
    have hwdone := hends.hands.follow.doneLaw hvdone
    refine blockLaw_iff.mpr ⟨receptionLaw_of_no_record hends.record, hends.settles.follow.doneLaw hwdone, fun b => ?_⟩
    have hone := hheld b
    have hgivenUp := hends.givesUp.holders hdone hends.entriesStand b
    rw [recordBlocks_of_some hr, recordBlocks_of_none hends.recordGone, List.count_nil] at hgivenUp
    have hhanded := hends.hands.holders hvdone (hreception.2.2 r hr).2 b
    have hstand := hends.settles.holders_stand hwdone hends.entries (hends.record.trans hends.noRecord.symm) b
    omega

/-- A record whose claim is as it should be needs no more to end, however far it has come. -/
theorem chainLaw_endReception (hslots : SlotsFit s) (hentries : EntriesFit s)
    (hclaims : ∀ r, s.fr.record = some r → r.Claims) (how : Ending) : ChainLaw (endReception how s) := by
  cases hr : s.fr.record with
  | none =>
    rw [endReception_of_no_record hr]
    exact ⟨hslots, hentries, recordLaw_of_no_record hr⟩
  | some r =>
    obtain ⟨v, w, hends⟩ := endReception_endsBy how hr
    have hfollow : SlotsFollow s (endReception how s) :=
      hends.givesUp.follow.trans (hends.hands.follow.trans hends.settles.follow)
    have hhanded := hends.hands.entries (hclaims r hr) (hentries.of_entries hends.entriesStand)
    exact ⟨hfollow.slotsFit hslots, hhanded.of_entries hends.entries, recordLaw_of_no_record hends.record⟩

theorem keepsChains_endReception (how : Ending) (s : State) : KeepsChains s (endReception how s) := by
  refine ⟨fun h => blockLaw_endReception h how, fun h => ?_⟩
  obtain ⟨hslots, hentries, hrecord⟩ := chainLaw_iff.mp h
  exact chainLaw_endReception hslots hentries (fun r hr => (hrecord r hr).claims) how

/-- The reception ends with its last character counted. -/
theorem keepsChains_ended (hr : s.fr.record = some r) (hx : SameClaim r x)
    (how : Ending) : KeepsChains s (endReception how (setRecord x s)) := by
  refine ⟨fun h => blockLaw_endReception ?_ how, fun h => ?_⟩
  · exact blockLaw_of_record hr (setRecord_record x s) (slotsSettle_of_same rfl rfl) rfl rfl id id hx.chain
      (.inl hx.kind) h
  · obtain ⟨hslots, hentries, hrecord⟩ := chainLaw_iff.mp h
    refine chainLaw_endReception (s := setRecord x s) hslots hentries (fun y hy hclaim => ?_) how
    obtain rfl := Option.some.inj hy
    rw [hx.chain, hx.length, hx.received]
    exact (hrecord r hr).claims (hx.claim ▸ hclaim)

end Sys2Proof.Machine
end

section
/-! SUPPORT. The receiver keeps every block with one holder and every chain with its length: the marks of the quiet
count, the start bits, and the characters of a frame. -/

namespace Sys2Proof.Machine

open Sys2Proof

variable {b : Byte} {s t u : State} {r x : Rx}

/-! ### Marks of the quiet count -/

theorem keepsChains_reachQuiet (n : Nat) (s : State) : KeepsChains s (reachQuiet n s) := by
  refine keepsChains_of_mode (slotsSettle_of_same rfl rfl) rfl (by simp) id (fun hm => .inl ?_) ?_
  · by_contra hs
    have hkept := (Fr.atQuiet_receiving (max s.lac.quiet n) s.fr).1 (by simpa using hs)
    exact hs (by rw [← hkept]; exact hm)
  · rcases Fr.atQuiet_mode (max s.lac.quiet n) s.fr with hm | ⟨_, hm⟩
    · exact .inl hm
    · refine .inr ⟨?_, ?_⟩ <;> simp only [reachQuiet, hm] <;> decide

theorem keepsChains_closeAtDeadline (s : State) : KeepsChains s (closeAtDeadline s) := by
  refine keepsChains_of_slots (slotsSettle_closeAtDeadline s) ?_ ?_ ?_ ?_ <;> unfold closeAtDeadline <;> split <;> simp

theorem keepsChains_takeMarks (s : State) : KeepsChains s (takeMarks s) :=
  takeMarks_stages (P := KeepsChains s) (.refl s) (fun n u hu => hu.trans (keepsChains_reachQuiet n u))
    (fun u hu _ => hu.trans (keepsChains_endReception .truncated u))
    (fun u hu _ => hu.trans (keepsChains_closeAtDeadline u))
    fun _ hu => hu.trans (keepsChains_of_blocks rfl rfl rfl rfl rfl)

/-! ### Start bits -/

/-- FR holds no record, and goes to RECOVER. -/
theorem keepsChains_enterRecover (s : State) : KeepsChains s (enterRecover s) :=
  (keepsChains_abandonReception s).trans
    (keepsChains_of_no_record (slotsSettle_of_same rfl rfl) rfl (by simp) (by simp))

theorem keepsChains_failCandidate (s : State) : KeepsChains s (failCandidate s) :=
  keepsChains_of_slots (slotsSettle_failCandidate s) (by simp) (by simp) (by simp) (by simp)

theorem keepsChains_takeStray (s : State) : KeepsChains s (takeStray s) := by
  have hrecover : KeepsChains s (countEvent .stray (enterRecover (otherDominant s))) :=
    (keepsChains_of_blocks rfl rfl rfl rfl rfl).trans
      ((keepsChains_enterRecover (otherDominant s)).trans (keepsChains_of_blocks rfl rfl rfl rfl rfl))
  unfold takeStray strayCandidate
  split
  · exact hrecover
  · exact hrecover.trans ((keepsChains_failCandidate _).after (keepsChains_of_blocks rfl rfl rfl rfl rfl))

/-- A start bit in HUNT opens a record with no blocks (R98). -/
theorem keepsChains_openRecord {c : Bool} (hm : s.fr.mode = .hunt) (hstation : s.sc.station ≠ .offline) :
    KeepsChains s (openRecord c s) :=
  keepsChains_of_opened (slotsSettle_of_same rfl rfl) rfl (fun h => h.1 (by rw [hm]; rfl)) rfl rfl rfl
    ⟨Nat.zero_le 3, rfl, rfl⟩ hstation

theorem keepsChains_takeStart (hm : s.fr.mode = .hunt) (hstation : s.sc.station ≠ .offline) :
    KeepsChains s (takeStart s) :=
  (keepsChains_of_blocks rfl rfl rfl rfl rfl).trans
    ((keepsChains_openRecord (s := otherDominant s) hm hstation).trans (keepsChains_of_blocks rfl rfl rfl rfl rfl))

/-- The record moves on with what its claim rests on and its character count. -/
theorem keepsChains_of_record (hr : s.fr.record = some r) (ht : t.fr.record = some x) (h : SlotsSettle s t)
    (hentries : t.rq.entries = s.rq.entries) (hstation : t.sc.station = s.sc.station)
    (hmode : t.fr.mode = s.fr.mode) (hx : SameClaim r x)
    (hcount : x.count = r.count ∨ s.fr.mode = .check) : KeepsChains s t := by
  refine ⟨blockLaw_of_record hr ht h hentries hstation (hmode ▸ id) (hmode ▸ id) hx.chain (.inl hx.kind),
    chainLaw_of_record ht h hentries fun hlaw => ?_⟩
  obtain ⟨hheader, hclaimed⟩ := hlaw r hr
  rw [hmode]
  refine ⟨fun hm => ?_, fun hclaim => ?_⟩
  · rw [hx.claim, hx.received, hcount.resolve_right (by rw [hm]; decide)]
    exact hheader hm
  · obtain ⟨hchain, hreceived, hkind, hbody⟩ := hclaimed (hx.claim ▸ hclaim)
    rw [hx.chain, hx.length, hx.received, hx.kind]
    refine ⟨hchain, hreceived, hkind, fun hm => ?_⟩
    rw [hcount.resolve_right (by rw [hm]; decide)]
    exact hbody hm

/-- A mark is put into the record, if there is one. -/
theorem keepsChains_of_marked {f : Rx → Rx} (hf : ∀ r, SameClaim r (f r)) (hcount : ∀ r, (f r).count = r.count) :
    KeepsChains s { s with fr := { s.fr with record := s.fr.record.map f } } := by
  cases hr : s.fr.record with
  | none => exact keepsChains_of_same ⟨rfl, rfl, rfl, hr.symm⟩ rfl rfl
  | some r => exact keepsChains_of_record hr rfl (slotsSettle_of_same rfl rfl) rfl rfl rfl (hf r) (.inl (hcount r))

theorem keepsChains_beginCharacter (s : State) : KeepsChains s (beginCharacter s) :=
  KeepsChains.after (keepsChains_of_marked (s := { s with lac := { s.lac with quiet := 0 } })
    (fun _ => ⟨rfl, rfl, rfl, rfl, rfl⟩) fun _ => rfl) (keepsChains_of_blocks rfl rfl rfl rfl rfl)

theorem keepsChains_takeStartBit (hstation : s.sc.station ≠ .offline) : KeepsChains s (takeStartBit s) := by
  unfold takeStartBit
  split
  · next hm =>
    split
    · exact keepsChains_takeStray s
    · exact keepsChains_takeStart hm hstation
  · exact keepsChains_of_blocks rfl rfl rfl rfl rfl
  · exact keepsChains_beginCharacter s
  · exact keepsChains_beginCharacter s
  · exact keepsChains_beginCharacter s
  · exact .refl s

/-! ### The header -/

/-- A field of the header is put into the record, or a character of it is counted, before LENGTH. -/
theorem keepsChains_field (hr : s.fr.record = some r) (hm : s.fr.mode = .header) (hchain : x.chain = r.chain)
    (hclaim : x.claim = r.claim) (hreceived : x.received = r.received) (hcount : x.count ≤ 3) :
    KeepsChains s (setRecord x s) := by
  refine ⟨blockLaw_of_record hr rfl (slotsSettle_of_same rfl rfl) rfl rfl id id hchain
    (.inr hm), chainLaw_of_record (t := setRecord x s) rfl (slotsSettle_of_same rfl rfl) rfl fun hlaw => ?_⟩
  obtain ⟨_, hunclaimed, hnone⟩ := (hlaw r hr).1 hm
  exact ⟨fun _ => ⟨hcount, hclaim.trans hunclaimed, hreceived.trans hnone⟩,
    fun hc => by rw [hclaim, hunclaimed] at hc; cases hc⟩

/-- FR has left HEADER for the characters after it. -/
theorem pastHeader {m : FrMode} (h : m = .check ∨ m = .body) : m.receiving = true ∧ m ≠ .header := by
  rcases h with rfl | rfl <;> decide

/-- The header ends with no claim that succeeded (R104, R105). -/
theorem keepsChains_of_no_claim (hr : s.fr.record = some r) (hm : s.fr.mode = .header) (ht : t.fr.record = some x)
    (h : SlotsSettle s t) (hentries : t.rq.entries = s.rq.entries) (hstation : t.sc.station = s.sc.station)
    (hmode : t.fr.mode = .check ∨ t.fr.mode = .body) (hchain : x.chain = r.chain)
    (hclaim : x.claim = r.claim ∨ x.claim = .failed) : KeepsChains s t := by
  obtain ⟨hreceiving, hpast⟩ := pastHeader hmode
  refine ⟨blockLaw_of_record hr ht h hentries hstation (fun _ => hreceiving) (fun he => absurd he hpast) hchain
    (.inr hm), chainLaw_of_record ht h hentries fun hlaw => ⟨fun he => absurd he hpast, fun hc => ?_⟩⟩
  obtain ⟨_, hunclaimed, _⟩ := (hlaw r hr).1 hm
  rcases hclaim with hclaim | hclaim
  · rw [hclaim, hunclaimed] at hc; cases hc
  · rw [hclaim] at hc; cases hc

/-- The blocks of a claim leave the head of the free list (R49, R54). -/
theorem holders_of_claim {k : Nat} (hr : recordBlocks s = []) (ht : recordBlocks t = s.bp.free.take k)
    (hslots : t.ts.slots = s.ts.slots) (hentries : t.rq.entries = s.rq.entries) (hfree : t.bp.free = s.bp.free.drop k)
    (b : Block) : holders b t = holders b s := by
  have hsplit := congrArg (List.count b) (List.take_append_drop k s.bp.free)
  rw [List.count_append] at hsplit
  rw [holders_eq, holders_eq, hfree, hentries, ht, hr]
  simp only [count_slotBlocks, slotAt_congr hslots, List.count_nil]
  omega

/-- The header ends with a claim that succeeded: `x` is the record with its LENGTH and its chain. -/
theorem keepsChains_of_claim (hr : s.fr.record = some r) (hm : s.fr.mode = .header) (ht : t.fr.record = some x)
    (hslots : t.ts.slots = s.ts.slots) (hentries : t.rq.entries = s.rq.entries)
    (hstation : t.sc.station = s.sc.station) (hmode : t.fr.mode = if x.length = 0 then .check else .body)
    (hfew : blocksFor x.length ≤ s.bp.free.length) (hfree : t.bp.free = s.bp.free.drop (blocksFor x.length))
    (hchain : x.chain = s.bp.free.take (blocksFor x.length)) (hreceived : x.received = r.received)
    (hk : x.kind = .data ∨ x.kind = .datagram) (hcount : r.count ≤ 3 → x.count = 4) : KeepsChains s t := by
  have hx {y : Rx} (hy : t.fr.record = some y) : y = x := (Option.some.inj (ht.symm.trans hy)).symm
  have hfollow : SlotsFollow s t := slotsFollow_of_slots hslots
  obtain ⟨hreceiving, hpast⟩ : t.fr.mode.receiving = true ∧ t.fr.mode ≠ .header :=
    pastHeader (by rw [hmode]; exact ite_eq_or_eq _ _ _)
  constructor
  · intro hlaw
    obtain ⟨⟨_, hoffline, hrecord⟩, hdone, hone⟩ := blockLaw_iff.mp hlaw
    refine blockLaw_iff.mpr ⟨⟨fun hq => ?_, fun ho => ?_, fun y hy => ?_⟩, hfollow.doneLaw hdone, fun b => ?_⟩
    · rw [hreceiving] at hq; cases hq
    · rw [hoffline (hstation ▸ ho)] at hr; cases hr
    · obtain rfl := hx hy
      exact ⟨fun he => absurd he hpast, fun _ => hk⟩
    · have hnil : recordBlocks s = [] := by rw [recordBlocks_of_some hr, (hrecord r hr).1 hm]
      rw [holders_of_claim hnil ((recordBlocks_of_some ht).trans hchain) hslots hentries hfree b, hone b]
  · intro hlaw
    obtain ⟨hfits, hentriesFit, hrecord⟩ := chainLaw_iff.mp hlaw
    obtain ⟨hcounted, _, hnone⟩ := (hrecord r hr).1 hm
    refine ⟨hfollow.slotsFit hfits, hentriesFit.of_entries hentries, fun y hy => ?_⟩
    obtain rfl := hx hy
    have hzero : y.received = 0 := hreceived.trans hnone
    have hlength : y.chain.length = blocksFor y.length := by rw [hchain, List.length_take, Nat.min_eq_left hfew]
    refine ⟨fun he => absurd he hpast, fun _ => ⟨hlength, by omega, hk, fun hbody => ?_⟩⟩
    have hpayload : y.length ≠ 0 := fun hl => by
      rw [hmode, if_pos hl] at hbody
      cases hbody
    have := hcount hcounted
    omega

/-- The claim of an accepted frame, all or nothing (R54, R104): `x` is the record with its LENGTH. -/
theorem keepsChains_claimReception (hr : s.fr.record = some r) (hm : s.fr.mode = .header) (hchain : x.chain = r.chain)
    (hreceived : x.received = r.received) (hk : x.kind = .data ∨ x.kind = .datagram)
    (hcount : r.count ≤ 3 → x.count = 4) (y : Rx) :
    KeepsChains s (enterBody x.length (claimReception x (setRecord y s))) := by
  unfold claimReception
  dsimp only
  split
  · next hroom =>
    exact keepsChains_of_claim (x := { x with claim := .succeeded, chain := s.bp.free.take (blocksFor x.length) }) hr hm
      rfl rfl rfl rfl rfl hroom.1 rfl rfl hreceived hk hcount
  · exact keepsChains_of_no_claim hr hm rfl (slotsSettle_of_same rfl rfl) rfl rfl (ite_eq_or_eq _ _ _) hchain
      (.inr rfl)

/-- The fourth character: LENGTH and the claim, or REASON (R100, R104). -/
theorem keepsChains_takeFourth (hr : s.fr.record = some r) (hm : s.fr.mode = .header) (hx : SameClaim r x)
    (hcount : r.count ≤ 3 → x.count = 4) : KeepsChains s (takeFourth b x (setRecord x s)) := by
  have hmalformed : KeepsChains s (endReception .malformed (setRecord x s)) :=
    keepsChains_ended hr hx _
  have hunclaimed : KeepsChains s (enterBody b.toNat (setRecord { x with length := b.toNat } (setRecord x s))) :=
    keepsChains_of_no_claim hr hm rfl (slotsSettle_of_same rfl rfl) rfl rfl (ite_eq_or_eq _ _ _) hx.chain
      (.inl hx.claim)
  have hresponse :
      KeepsChains s { s with fr := { s.fr with mode := .check, record := some { x with reason := b } } } :=
    keepsChains_of_no_claim hr hm rfl (slotsSettle_of_same rfl rfl) rfl rfl (.inl rfl) hx.chain (.inl hx.claim)
  have hclaimed (hk : x.kind = .data ∨ x.kind = .datagram) :
      KeepsChains s (enterBody b.toNat (claimReception { x with length := b.toNat } (setRecord x s))) :=
    keepsChains_claimReception (x := { x with length := b.toNat }) hr hm hx.chain hx.received hk hcount x
  unfold takeFourth
  split
  · exact hresponse
  · exact hresponse
  · split
    · exact hmalformed
    · exact hunclaimed
  all_goals
    next hk =>
    split
    · exact hmalformed
    · dsimp only
      split
      · exact hunclaimed
      · exact hclaimed (by simp [hk])

/-- A header character, with its record counted (R100). -/
theorem keepsChains_takeHeader (hr : s.fr.record = some r) (hm : s.fr.mode = .header) :
    KeepsChains s (takeHeader b (r.covered b) (setRecord (r.covered b) s)) := by
  have hx : SameClaim r (r.covered b) := ⟨rfl, rfl, rfl, rfl, rfl⟩
  have hmalformed : KeepsChains s (endReception .malformed (setRecord (r.covered b) s)) :=
    keepsChains_ended hr hx _
  unfold takeHeader takeLead takeControl takeDest
  split
  · next hc =>
    dsimp only
    split
    · exact hmalformed
    · exact keepsChains_field hr hm rfl rfl rfl (by exact hc.trans_le (by decide))
  · next hc =>
    split
    · exact hmalformed
    · exact keepsChains_field hr hm rfl rfl rfl (by exact hc.trans_le (by decide))
  · next hc =>
    split
    · exact keepsChains_field hr hm rfl rfl rfl (by exact hc.le)
    · exact hmalformed
  · next h1 h2 h3 =>
    refine keepsChains_takeFourth hr hm hx fun hc => ?_
    have hcounted : (r.covered b).count = r.count + 1 := rfl
    have hne (k : Nat) (hk : (r.covered b).count = k → False) : r.count + 1 ≠ k := fun e => hk (hcounted.trans e)
    have := hne 1 h1
    have := hne 2 h2
    have := hne 3 h3
    omega

/-! ### The payload and the check characters -/

/-- What a character of BODY does: it joins the list, is passed over, or is stored and counted (R55, R105). -/
theorem takeBody_cases (hm : s.fr.mode = .body) (ht : takeBody b x s = some t) :
    x.kind = .ready ∧ t = bodyTaken { x with list := x.list ++ [b] } s ∨
    x.claim ≠ .succeeded ∧ t = bodyTaken x s ∨
    x.claim = .succeeded ∧ ∃ mem, t = bodyTaken { x with received := x.received + 1 }
      { s with bp := { s.bp with mem := mem } } := by
  unfold takeBody at ht
  split at ht
  · next hk =>
    cases ht
    exact .inl ⟨hk, bodyDone_setRecord hm rfl rfl⟩
  · split at ht
    · next hclaim =>
      obtain ⟨u, hu, rfl⟩ := Option.map_eq_some_iff.mp ht
      obtain ⟨a, _, rfl⟩ := Option.map_eq_some_iff.mp hu
      exact .inr (.inr ⟨hclaim, _, bodyDone_setRecord (by exact hm) rfl rfl⟩)
    · next hclaim =>
      cases ht
      exact .inr (.inl ⟨hclaim, bodyDone_setRecord hm rfl rfl⟩)

/-- A character of BODY leaves the record `x`: one more was received when the claim succeeded. -/
theorem keepsChains_bodyTaken {mem : List Host.Cell} (hr : s.fr.record = some r) (hm : s.fr.mode = .body)
    (hchain : x.chain = r.chain) (hkind : x.kind = r.kind) (hlength : x.length = r.length) (hclaim : x.claim = r.claim)
    (hstored : (r.kind = .data ∨ r.kind = .datagram) → r.claim = .succeeded →
      x.received = r.received + 1 ∧ x.count = r.count + 1) :
    KeepsChains s (bodyTaken x { s with bp := { s.bp with mem := mem } }) := by
  have hmode : (bodyTaken x { s with bp := { s.bp with mem := mem } }).fr.mode =
      if x.length + 4 ≤ x.count then .check else .body := rfl
  obtain ⟨hreceiving, hpast⟩ := pastHeader (hmode ▸ ite_eq_or_eq (x.length + 4 ≤ x.count) FrMode.check .body)
  refine ⟨blockLaw_of_record hr rfl (slotsSettle_of_same rfl rfl) rfl rfl (fun _ => hreceiving)
    (fun he => absurd he hpast) hchain (.inl hkind),
    chainLaw_of_record rfl (slotsSettle_of_same rfl rfl) rfl fun hlaw => ⟨fun he => absurd he hpast, fun hc => ?_⟩⟩
  rw [hclaim] at hc
  obtain ⟨hblocks, _, hmessage, hbody⟩ := (hlaw r hr).2 hc
  obtain ⟨hroom, hcount⟩ := hbody hm
  obtain ⟨hreceived, hcounted⟩ := hstored hmessage hc
  refine ⟨by rw [hchain, hlength, hblocks], by omega, hkind ▸ hmessage, fun hgoesOn => ?_⟩
  have hmore : ¬ x.length + 4 ≤ x.count := fun hdone => by
    rw [hmode, if_pos hdone] at hgoesOn
    cases hgoesOn
  omega

theorem keepsChains_takeBody (hr : s.fr.record = some r) (hm : s.fr.mode = .body)
    (ht : takeBody b (r.covered b) (setRecord (r.covered b) s) = some t) : KeepsChains s t := by
  rcases takeBody_cases (by exact hm) ht with ⟨hk, rfl⟩ | ⟨hclaim, rfl⟩ | ⟨_, mem, rfl⟩
  · have hready : r.kind = .ready := hk
    exact keepsChains_bodyTaken (mem := s.bp.mem) hr hm rfl rfl rfl rfl fun hmessage _ => by simp [hready] at hmessage
  · exact keepsChains_bodyTaken (mem := s.bp.mem) hr hm rfl rfl rfl rfl fun _ hc => absurd hc hclaim
  · exact keepsChains_bodyTaken (mem := mem) hr hm rfl rfl rfl rfl fun _ _ => ⟨rfl, rfl⟩

/-- A character of CHECK, with its record counted: the first is kept, the second ends the reception (R105, R106). -/
theorem keepsChains_takeCheck (hr : s.fr.record = some r) (hm : s.fr.mode = .check) :
    KeepsChains s (takeCheck b r.counted (setRecord r.counted s)) := by
  obtain ⟨first, hfirst⟩ : ∃ first, takeCheck b r.counted (setRecord r.counted s) =
      if r.counted.count ≤ first then setRecord { r.counted with checkHigh := b } s
      else endReception (if checkChars r.crc = [r.checkHigh, b] then .good else .badCheck) (setRecord r.counted s) :=
    ⟨_, rfl⟩
  rw [hfirst]
  split
  · exact keepsChains_of_record hr rfl (slotsSettle_of_same rfl rfl) rfl rfl rfl ⟨rfl, rfl, rfl, rfl, rfl⟩
      (.inr hm)
  · exact keepsChains_ended hr ⟨rfl, rfl, rfl, rfl, rfl⟩ _

theorem keepsChains_takeComplete (hr : s.fr.record = some r) (ht : takeComplete b r s = some t) : KeepsChains s t := by
  unfold takeComplete at ht
  dsimp only at ht
  split at ht
  · next hm => cases ht; exact keepsChains_takeHeader hr hm
  · next hm => exact keepsChains_takeBody hr hm ht
  · next hm => cases ht; exact keepsChains_takeCheck hr hm
  · cases ht; exact .refl s

theorem keepsChains_takeCharacter {stop : LineBit} (hr : s.fr.record = some r)
    (ht : takeCharacter b stop r s = some t) : KeepsChains s t := by
  have hquiet (q : Nat) : KeepsChains s { s with lac := { s.lac with quiet := q } } :=
    keepsChains_of_blocks rfl rfl rfl rfl rfl
  unfold takeCharacter at ht
  split at ht
  · cases ht; exact (hquiet _).trans (keepsChains_endReception _ _)
  · exact (hquiet _).trans (keepsChains_takeComplete (by exact hr) ht)

theorem keepsChains_arrivingCharacter {v c : Byte} {stop st : LineBit}
    (ha : arrivingCharacter v stop s = some (c, st, t)) : KeepsChains s t := by
  unfold arrivingCharacter at ha
  split at ha
  · cases ha
  · split at ha <;> cases ha
    exact keepsChains_of_blocks rfl rfl rfl rfl rfl
  · split at ha <;> cases ha
    split
    · exact .refl s
    · exact keepsChains_takeMarks s

theorem keepsChains_characterReceived {v : Byte} {stop : LineBit}
    (ht : exec (.characterReceived v stop) s = .next t) : KeepsChains s t := by
  simp only [exec, execCharacterReceived] at ht
  split at ht
  · cases ht; exact .refl s
  split at ht
  · cases ht; exact .refl s
  next c st u harrives =>
    have hu : KeepsChains s u := keepsChains_arrivingCharacter harrives
    split at ht
    · next hr =>
      split at ht <;> cases ht
      exact hu.trans (keepsChains_takeCharacter hr (by assumption))
    · split at ht <;> cases ht
      · exact hu.trans (keepsChains_of_blocks rfl rfl rfl rfl rfl)
      · exact .refl s

end Sys2Proof.Machine
end

section
/-! SUPPORT. LAC's own rows keep every block with one holder and every chain with its length: the frame it commits, the
lead it loses, the frame it ends, and the line it leaves. -/

namespace Sys2Proof.Machine

open Sys2Proof

variable {s t u : State} {n : SlotId}

/-! ### The offer committed, and the frame driven -/

theorem slotsSettle_commitOffer (o : Offer) (chars : List Byte) (s : State) :
    SlotsSettle s (commitOffer o chars s) := by
  unfold commitOffer
  dsimp only
  split
  · exact slotsSettle_of_same rfl rfl
  split
  · exact slotsSettle_of_same rfl rfl
  · next sl hw =>
    obtain ⟨hs, hp⟩ := slotWhen_eq_some.mp hw
    exact slotsSettle_rewrite hs (sl' := { sl with phase := .sending, sentSeq := slotSeq s sl })
      ⟨rfl, rfl, by rw [hp]; rfl⟩ rfl rfl

theorem keepsChains_commitOffer (o : Offer) (chars : List Byte) (s : State) : KeepsChains s (commitOffer o chars s) :=
  keepsChains_of_slots (slotsSettle_commitOffer o chars s) (by simp) (by simp) (by simp) (by simp)

/-- In LOOP, FR takes the start bit that LAC drives (R113). -/
theorem keepsChains_ownStartBit (s : State) : KeepsChains s (ownStartBit s) := by
  unfold ownStartBit
  split
  · next hc =>
    simp only [Bool.and_eq_true, decide_eq_true_eq, beq_iff_eq] at hc
    exact (keepsChains_openRecord hc.2 (by simp [hc.1])).trans (keepsChains_of_blocks rfl rfl rfl rfl rfl)
  · exact .refl s

theorem slotsSettle_slotSent (n : SlotId) (s : State) : SlotsSettle s (slotSent n s) := by
  unfold slotSent
  split
  · exact .refl s
  · next sl hw =>
    obtain ⟨hs, hp⟩ := slotWhen_eq_some.mp hw
    dsimp only
    split
    · have hdemoted : slotAt (demote sl.cls s) n = some sl := hs
      exact (slotsSettle_completeSlot hdemoted (by rfl) _).before rfl rfl
    · exact slotsSettle_rewrite hs (sl' := { sl with phase := .awaiting }) ⟨rfl, rfl, by rw [hp]; rfl⟩ rfl rfl

theorem slotsSettle_reportSent (src : BurstSource) (s : State) : SlotsSettle s (reportSent src s) := by
  cases src with
  | response => exact .refl s
  | notice => exact slotsSettle_of_same rfl rfl
  | slot n ahead => exact slotsSettle_slotSent n s

theorem keepsChains_reevaluate (s : State) : KeepsChains s (reevaluate s) :=
  keepsChains_of_slots (slotsSettle_reevaluate s) (by simp) (by simp) (by simp) (by simp)

theorem keepsChains_reportSent (src : BurstSource) (s : State) : KeepsChains s (reportSent src s) :=
  keepsChains_of_slots (slotsSettle_reportSent src s) (by simp) (by simp) (by simp) (by simp)

/-- FR is told of the end of a frame of this station in its gap guard alone (R95). -/
theorem keepsChains_takeFrameEnd (b : Burst) (s : State) : KeepsChains s (takeFrameEnd b s) := by
  unfold takeFrameEnd ownFrameEnd
  dsimp only
  split
  · exact keepsChains_of_blocks rfl rfl rfl rfl rfl
  · exact keepsChains_of_same ⟨rfl, rfl, rfl, rfl⟩ rfl rfl

/-! ### The lead lost, and the frame cut -/

theorem slotsSettle_returnOffer (src : BurstSource) (s : State) : SlotsSettle s (returnOffer src s) := by
  cases src with
  | response => exact .refl s
  | notice => exact slotsSettle_of_same rfl rfl
  | slot n ahead =>
    simp only [returnOffer]
    split
    · exact .refl s
    · next sl hw =>
      obtain ⟨hs, hp⟩ := slotWhen_eq_some.mp hw
      exact slotsSettle_rewrite hs (sl' := { sl with phase := .offered }) ⟨rfl, rfl, by rw [hp]; rfl⟩ rfl rfl

theorem keepsChains_returnOffer (src : BurstSource) (s : State) : KeepsChains s (returnOffer src s) :=
  keepsChains_of_slots (slotsSettle_returnOffer src s) (by simp) (by simp) (by simp) (by simp)

/-- FR takes over the lead with a record that holds no blocks (R97). -/
theorem keepsChains_takeOverLead (bits : List LineBit) (hstation : s.sc.station ≠ .offline) :
    KeepsChains s (takeOverLead bits s) :=
  (keepsChains_abandonReception s).trans
    (keepsChains_of_opened (slotsSettle_of_same rfl rfl) rfl (fun _ => by simp) rfl rfl rfl ⟨Nat.zero_le 3, rfl, rfl⟩
      (by simpa [takeOverLead] using hstation))

theorem keepsChains_loseLead (b : Burst) (k : Nat) (hstation : s.sc.station ≠ .offline) :
    KeepsChains s (loseLead b k s) := by
  unfold loseLead
  dsimp only
  refine KeepsChains.trans ?_ (keepsChains_reevaluate _)
  refine KeepsChains.trans ?_ (keepsChains_returnOffer _ _)
  exact (keepsChains_takeOverLead _ (by exact hstation)).after (keepsChains_of_blocks rfl rfl rfl rfl rfl)

theorem slotsSettle_reportCut (src : BurstSource) (s : State) : SlotsSettle s (reportCut src s) := by
  cases src with
  | response => exact .refl s
  | notice => exact slotsSettle_of_same rfl rfl
  | slot n ahead => exact slotsSettle_endEchoFault n s

theorem keepsChains_reportCut (src : BurstSource) (s : State) : KeepsChains s (reportCut src s) :=
  keepsChains_of_slots (slotsSettle_reportCut src s) (by simp) (by simp) (by simp) (by simp)

/-! ### The line left -/

theorem slotsSettle_stopScheduler (s : State) : SlotsSettle s (stopScheduler s) := by
  have hcut (w : State) : SlotsSettle w (cutSlot w) := by
    unfold cutSlot
    split
    · exact slotsSettle_endCut _ w
    · exact .refl w
  have hclosed (w : State) : SlotsSettle w (closeWindow w) := by
    unfold closeWindow
    split
    · exact .refl w
    · exact slotsSettle_endUnanswered _ w
  have hreturned (w : State) : SlotsSettle w (returnNotice w) := by
    rw [returnNotice_eq]
    exact slotsSettle_of_same rfl rfl
  exact (slotsSettle_withdrawOffer s).trans ((hcut _).trans ((hclosed _).trans (hreturned _)))

/-- FR gives its reception up, or it goes on without its mark (R97, R112). -/
theorem keepsChains_stopReceiver {old target : Station} {driving : Bool} (h : SlotsSettle s u)
    (hentries : u.rq.entries = s.rq.entries) (hfr : u.fr = s.fr) (hstation : u.sc.station = target) :
    KeepsChains s (stopReceiver old target driving u) := by
  have habandoned : KeepsChains s (abandonReception u) := keepsChains_abandoned h hentries (by rw [hfr])
  unfold stopReceiver
  dsimp only
  split
  · exact habandoned.trans (keepsChains_of_no_record (slotsSettle_of_same rfl rfl) rfl (by simp) (by simp))
  next htarget =>
  have hsettled : KeepsChains s u :=
    keepsChains_of_slots h hentries (by rw [hfr]) (by rw [hfr]) fun ho => absurd (hstation.symm.trans ho) htarget
  split
  · exact habandoned.trans (keepsChains_of_no_record (slotsSettle_of_same rfl rfl) rfl (by simp) (by simp))
  split
  · exact hsettled.trans (keepsChains_enterRecover u)
  · exact hsettled.trans (keepsChains_of_marked (fun _ => ⟨rfl, rfl, rfl, rfl, rfl⟩) fun _ => rfl)

theorem keepsChains_leaveLine (target : Station) (s : State) : KeepsChains s (leaveLine target s) := by
  have hstopped : SlotsSettle s (stopScheduler (setStation target s)) := (slotsSettle_stopScheduler _).before rfl rfl
  exact (keepsChains_stopReceiver hstopped (by simp) (by simp) (by simp)).trans
    (keepsChains_of_blocks rfl rfl rfl rfl rfl)

theorem keepsChains_applyFaultLimit (s : State) : KeepsChains s (applyFaultLimit s) := by
  unfold applyFaultLimit
  split
  · exact (keepsChains_leaveLine .silent s).trans (keepsChains_of_same ⟨rfl, rfl, rfl, rfl⟩ rfl rfl)
  · exact .refl s

theorem keepsChains_takeEchoFault (b : Burst) (k : Nat) (s : State) : KeepsChains s (takeEchoFault b k s) := by
  unfold takeEchoFault
  dsimp only
  refine KeepsChains.trans ?_ (keepsChains_reevaluate _)
  refine KeepsChains.trans ?_ (keepsChains_applyFaultLimit _)
  refine KeepsChains.trans ?_ (keepsChains_reportCut _ _)
  exact (keepsChains_enterRecover _).after (keepsChains_of_blocks rfl rfl rfl rfl rfl)

end Sys2Proof.Machine
end

section
/-! SUPPORT. The commands keep every block with one holder and every chain with its length: those of the slots, those of
the Receive Queue, and those of Station Control. -/

namespace Sys2Proof.Machine

open Sys2Proof

variable {s t u : State} {n : SlotId}

theorem KeepsChains.answered (h : KeepsChains s u) (c : Cst) (q : Quad) : KeepsChains s (answer c q u) :=
  h.trans (keepsChains_of_blocks rfl rfl rfl rfl rfl)

/-- An answer alone. -/
theorem keepsChains_answer (c : Cst) (q : Quad) (s : State) : KeepsChains s (answer c q s) :=
  (KeepsChains.refl s).answered c q

/-! ### The slots -/

/-- ALLOCATE takes the chain from the head of the free list (R67). -/
theorem keepsChains_allocateBody (s : State) : KeepsChains s (allocateBody s) := by
  unfold allocateBody
  dsimp only
  split
  · exact keepsChains_answer _ _ s
  split
  · exact keepsChains_answer _ _ s
  next k c _ _ n hlowest =>
  split
  · exact keepsChains_answer _ _ s
  next hreserve =>
  refine KeepsChains.answered ?_ _ _
  refine keepsChains_of_slots ?_ rfl rfl rfl id
  have hfree : slotAt s n = none := by simpa using List.find?_some hlowest
  have hfew : blocksFor s.hp.args.b0.toNat ≤ s.bp.free.length := by unfold freeCount at hreserve; omega
  refine slotsSettle_replace (n := n) rfl ?_ fun _ b => ?_
  · rintro _ ⟨⟩
    exact .inl ⟨fun ho => (by cases ho), fun _ => by simpa [loadedSlot, claimedChain] using hfew⟩
  · have hsplit := congrArg (List.count b) (List.take_append_drop (blocksFor s.hp.args.b0.toNat) s.bp.free)
    rw [List.count_append] at hsplit
    rw [hfree]
    exact (Nat.add_comm _ _).trans hsplit

theorem keepsChains_submitBody (s : State) : KeepsChains s (submitBody s) := by
  unfold submitBody
  split
  · exact keepsChains_answer _ _ s
  split
  · exact keepsChains_answer _ _ s
  next n _ sl hs =>
  split
  · exact keepsChains_answer _ _ s
  next hp =>
  refine KeepsChains.answered ?_ _ _
  refine KeepsChains.after (keepsChains_reevaluate _) ?_
  refine keepsChains_of_slots ?_ rfl rfl rfl id
  refine slotsSettle_rewrite hs ?_ rfl rfl
  exact ⟨rfl, rfl, by rw [not_not.mp hp]; rfl⟩

/-- The frame that ABORT cuts leaves FR without a record (R97, R113). -/
theorem keepsChains_cutByAbort (s : State) : KeepsChains s (cutByAbort s) := by
  have hstopped : KeepsChains s (stopBurst .quiet { s with lac := { s.lac with path := [] } }) :=
    keepsChains_of_blocks rfl rfl rfl rfl rfl
  unfold cutByAbort
  dsimp only
  split
  · exact .refl s
  split
  · exact hstopped.trans ((keepsChains_endReception .truncated _).trans
      (keepsChains_of_no_record (slotsSettle_of_same rfl rfl) rfl (endReception_record _ _)
        (endReception_record _ _)))
  · exact hstopped.trans (keepsChains_enterRecover _)

theorem slotsSettle_abortLoading {sl : Slot} (hs : slotAt s n = some sl) :
    SlotsSettle s (releaseChain sl.chain (setSlot n none s)) := by
  refine slotsSettle_replace (n := n) (r := none) rfl (fun _ h => by cases h) fun _ b => ?_
  rw [hs]
  simp [slotChain, releaseChain, setSlot]

/-- A waiting slot that is aborted leaves its class queue, and its chain joins the free list (R87). -/
theorem slotsSettle_abortWaiting {sl : Slot} (hs : slotAt s n = some sl) (hslots : u.ts.slots = s.ts.slots)
    (hfree : u.bp.free = s.bp.free) : SlotsSettle s (completeSlot n .aborted sl u) :=
  (slotsSettle_completeSlot ((slotAt_congr hslots n).trans hs) rfl _).before hslots hfree

theorem keepsChains_abortSlot {sl : Slot} (hs : slotAt s n = some sl) : KeepsChains s (abortSlot n sl s) := by
  unfold abortSlot
  split
  · have hfreed : KeepsChains s (releaseChain sl.chain (setSlot n none s)) :=
      keepsChains_of_slots (slotsSettle_abortLoading hs) rfl rfl rfl id
    exact (hfreed.trans (keepsChains_reevaluate _)).answered _ _
  · refine ((keepsChains_of_slots (slotsSettle_abortWaiting hs ?_ ?_) ?_ ?_ ?_ ?_).trans
      (keepsChains_reevaluate _)).answered _ _ <;> simp
  · refine ((keepsChains_of_slots (slotsSettle_abortWaiting hs ?_ ?_) ?_ ?_ ?_ ?_).trans
      (keepsChains_reevaluate _)).answered _ _ <;> simp
  · have haborted (w : State) : KeepsChains w (endAborted n w) :=
      keepsChains_of_slots (slotsSettle_endAborted n w) (by simp) (by simp) (by simp) (by simp)
    exact ((keepsChains_cutByAbort s).trans ((haborted _).trans (keepsChains_reevaluate _))).answered _ _
  · refine KeepsChains.answered ?_ _ _
    refine keepsChains_of_slots ?_ rfl rfl rfl id
    exact slotsSettle_rewrite hs (sl' := { sl with abortPending := true }) ⟨rfl, rfl, rfl⟩ rfl rfl
  · exact keepsChains_answer _ _ s

theorem keepsChains_abortBody (s : State) : KeepsChains s (abortBody s) := by
  unfold abortBody
  split
  · exact keepsChains_answer _ _ s
  split
  · exact keepsChains_answer _ _ s
  · next hs => exact keepsChains_abortSlot hs

/-- The record that COLLECT takes has no blocks (R65, R86). -/
theorem keepsChains_collectBody (s : State) : KeepsChains s (collectBody s) := by
  unfold collectBody
  split
  · exact keepsChains_answer _ _ s
  next n rest _ =>
  dsimp only
  split
  · exact (keepsChains_of_same ⟨rfl, rfl, rfl, rfl⟩ rfl rfl).answered _ _
  next o sl hcollect =>
  obtain ⟨hs, ho⟩ : slotAt s n = some sl ∧ sl.phase.outcome = some o := by
    unfold collectable at hcollect
    split at hcollect
    · cases hcollect
    · next sl' hs =>
      obtain ⟨o', ho, he⟩ := Option.map_eq_some_iff.mp hcollect
      cases he
      exact ⟨hs, ho⟩
  refine KeepsChains.answered ?_ _ _
  refine keepsChains_of_slots ?_ rfl rfl rfl id
  refine slotsSettle_replace (n := n) (r := none) rfl (fun _ h => by cases h) fun hd b => ?_
  rw [hs]
  simp [slotChain, hd n sl hs (by rw [ho]; rfl), setSlot]

/-! ### The Receive Queue -/

/-- Entries leave the queue from its head, and their chains join the free list (R119, R120). -/
theorem keepsChains_of_removed {removed : List Entry} (hslots : t.ts.slots = s.ts.slots) (hfr : t.fr = s.fr)
    (hsc : t.sc = s.sc) (hentries : s.rq.entries = removed ++ t.rq.entries)
    (hfree : t.bp.free = s.bp.free ++ entryBlocks removed) : KeepsChains s t := by
  have hfollow : SlotsFollow s t := slotsFollow_of_slots hslots
  constructor
  · intro hlaw
    obtain ⟨hreception, hdone, hone⟩ := blockLaw_iff.mp hlaw
    refine blockLaw_iff.mpr ⟨?_, hfollow.doneLaw hdone, fun b => ?_⟩
    · simpa only [ReceptionLaw, hfr, hsc] using hreception
    · have hsplit : entryBlocks s.rq.entries = entryBlocks removed ++ entryBlocks t.rq.entries := by
        rw [hentries, entryBlocks, List.flatMap_append]
        rfl
      rw [← hone b, holders_eq, holders_eq, hfree, hsplit, recordBlocks_congr (s := s) (by rw [hfr])]
      simp only [count_slotBlocks, slotAt_congr hslots, List.count_append]
      omega
  · intro hlaw
    obtain ⟨hfits, hentriesFit, hrecord⟩ := chainLaw_iff.mp hlaw
    refine ⟨hfollow.slotsFit hfits, fun e he => hentriesFit e ?_, ?_⟩
    · rw [hentries]
      exact List.mem_append_right removed he
    · simpa only [RecordLaw, hfr] using hrecord

theorem keepsChains_testExit (s : State) : KeepsChains s (testExit s) :=
  keepsChains_of_slots (slotsSettle_testExit s) (by simp) (by simp) (by simp) (by simp)

theorem keepsChains_releaseBody (s : State) : KeepsChains s (releaseBody s) := by
  unfold releaseBody
  split
  · exact keepsChains_answer _ _ s
  · next e rest h =>
    refine ((keepsChains_testExit _).after (keepsChains_of_removed (removed := [e]) ?_ ?_ ?_ ?_ ?_)).answered _ _
    all_goals simp [h, entryBlocks]

theorem keepsChains_flushBody (s : State) : KeepsChains s (flushBody s) := by
  unfold flushBody
  dsimp only
  refine ((keepsChains_testExit _).after (keepsChains_of_removed (removed := s.rq.entries) ?_ ?_ ?_ ?_ ?_)).answered _ _
  all_goals split <;> simp

theorem keepsChains_pauseBody (s : State) : KeepsChains s (pauseBody s) :=
  KeepsChains.answered (keepsChains_of_same ⟨rfl, rfl, rfl, rfl⟩ rfl rfl) _ _

theorem keepsChains_buildNotice (s : State) : KeepsChains s (buildNotice s) :=
  keepsChains_of_slots (slotsSettle_buildNotice s) (by simp) (by simp) (by simp) (by simp)

theorem keepsChains_resumeBody (s : State) : KeepsChains s (resumeBody s) := by
  have hresumed : KeepsChains s { s with rq := { s.rq with paused := false } } :=
    keepsChains_of_same ⟨rfl, rfl, rfl, rfl⟩ rfl rfl
  unfold resumeBody
  dsimp only
  split
  · exact (hresumed.trans (keepsChains_buildNotice _)).answered _ _
  · exact hresumed.answered _ _

/-! ### The Peer Table and the group list -/

theorem keepsChains_forgetBody (s : State) : KeepsChains s (forgetBody s) := by
  have hforgot (pt : List Peer) (iu : Iu) : KeepsChains s { s with pt := pt, iu := iu } :=
    keepsChains_of_blocks rfl rfl rfl rfl rfl
  unfold forgetBody
  dsimp only
  split
  · exact keepsChains_answer _ _ s
  split
  · exact keepsChains_answer _ _ s
  split
  · exact keepsChains_answer _ _ s
  split
  · exact ((keepsChains_reevaluate _).after (hforgot _ _)).answered _ _
  · exact (hforgot _ s.iu).answered _ _

theorem keepsChains_setGroups (gs : List Nat) (s : State) : KeepsChains s (setGroups gs s) :=
  keepsChains_of_same ⟨rfl, rfl, rfl, rfl⟩ rfl rfl

theorem keepsChains_joinBody (s : State) : KeepsChains s (joinBody s) := by
  unfold joinBody
  dsimp only
  split
  · exact keepsChains_answer _ _ s
  split
  · exact keepsChains_answer _ _ s
  split
  · exact keepsChains_answer _ _ s
  · exact (keepsChains_setGroups _ s).answered _ _

theorem keepsChains_leaveBody (s : State) : KeepsChains s (leaveBody s) := by
  unfold leaveBody
  dsimp only
  split
  · exact keepsChains_answer _ _ s
  split
  · exact keepsChains_answer _ _ s
  · exact (keepsChains_setGroups _ s).answered _ _

/-! ### Station Control -/

/-- Out of OFFLINE FR enters RECOVER; there was no record (R94). -/
theorem keepsChains_enterRunning (target : Station) (hstation : s.sc.station = .offline) :
    KeepsChains s (enterRunning target s) :=
  keepsChains_of_mode (slotsSettle_of_same rfl rfl) rfl rfl (fun _ => hstation) (fun _ => .inr hstation)
    (.inr ⟨by simp [enterRunning], by simp [enterRunning]⟩)

/-- From one running state to another FR runs on. -/
theorem keepsChains_setStation {target : Station} (h : target ≠ .offline) (s : State) :
    KeepsChains s (setStation target s) :=
  keepsChains_of_slots (slotsSettle_of_same rfl rfl) rfl rfl rfl fun ho => absurd ho h

theorem keepsChains_goOnlineBody (s : State) : KeepsChains s (goOnlineBody s) := by
  have hchange (u : State) : KeepsChains u (goOnlineChange u) := by
    unfold goOnlineChange
    split
    · next h => exact keepsChains_enterRunning _ h
    · exact keepsChains_setStation (by decide) u
    · exact keepsChains_setStation (by decide) u
    · exact .refl u
    · exact keepsChains_leaveLine .online u
  unfold goOnlineBody
  split
  · exact keepsChains_answer _ _ s
  · refine (((hchange _).trans (keepsChains_reevaluate _)).after ?_).answered _ _
    exact keepsChains_of_blocks rfl rfl rfl rfl rfl

theorem keepsChains_goListenBody (s : State) : KeepsChains s (goListenBody s) := by
  unfold goListenBody
  refine KeepsChains.answered ?_ _ _
  split
  · next h => exact keepsChains_enterRunning _ h
  · exact .refl s
  · exact keepsChains_setStation (by decide) s
  · exact keepsChains_leaveLine .listen s
  · exact keepsChains_leaveLine .listen s

theorem keepsChains_goLoopBody (s : State) : KeepsChains s (goLoopBody s) := by
  unfold goLoopBody
  split
  · next h _ => exact ((keepsChains_enterRunning .loop h).trans (keepsChains_reevaluate _)).answered _ _
  · exact keepsChains_answer _ _ s

/-- A station that only hears gives its reception up on its way to OFFLINE (R112, R168). -/
theorem keepsChains_stopHearing (s : State) : KeepsChains s (stopHearing s) := by
  have habandoned : KeepsChains s (abandonReception (setStation .offline s)) :=
    keepsChains_abandoned (slotsSettle_of_same rfl rfl) rfl rfl
  exact habandoned.trans (keepsChains_of_no_record (slotsSettle_of_same rfl rfl) rfl (by simp) (by simp [stopHearing]))

theorem keepsChains_goOfflineBody (s : State) : KeepsChains s (goOfflineBody s) := by
  unfold goOfflineBody
  refine KeepsChains.answered (KeepsChains.trans ?_ (keepsChains_of_same ⟨rfl, rfl, rfl, rfl⟩ rfl rfl)) _ _
  split
  · exact .refl s
  · exact keepsChains_stopHearing s
  · exact keepsChains_stopHearing s
  · exact keepsChains_leaveLine .offline s
  · exact keepsChains_leaveLine .offline s

theorem keepsChains_setAddressBody (s : State) : KeepsChains s (setAddressBody s) := by
  unfold setAddressBody
  split
  · exact keepsChains_answer _ _ s
  split
  · exact (keepsChains_of_same ⟨rfl, rfl, rfl, rfl⟩ rfl rfl).answered _ _
  · exact keepsChains_answer _ _ s

theorem keepsChains_commandBody (c : HostCommand) (s : State) : KeepsChains s (commandBody c s) := by
  cases c with
  | allocate => exact keepsChains_allocateBody s
  | submit => exact keepsChains_submitBody s
  | abort => exact keepsChains_abortBody s
  | collect => exact keepsChains_collectBody s
  | release => exact keepsChains_releaseBody s
  | flush => exact keepsChains_flushBody s
  | pause => exact keepsChains_pauseBody s
  | resume => exact keepsChains_resumeBody s
  | forget => exact keepsChains_forgetBody s
  | queryPeer => refine keepsChains_of_blocks ?_ ?_ ?_ ?_ ?_ <;> simp [commandBody]
  | join => exact keepsChains_joinBody s
  | leave => exact keepsChains_leaveBody s
  | goOnline => exact keepsChains_goOnlineBody s
  | goListen => exact keepsChains_goListenBody s
  | goLoop => exact keepsChains_goLoopBody s
  | goOffline => exact keepsChains_goOfflineBody s
  | setAddress => exact keepsChains_setAddressBody s
  | clear => exact keepsChains_of_reset rfl rfl rfl rfl
  | clearCounters => exact keepsChains_of_blocks rfl rfl rfl rfl rfl

end Sys2Proof.Machine
end

section
/-! SUPPORT. Every row keeps every block with one holder and every chain with its length, and so does every step. -/

namespace Sys2Proof.Machine

open Sys2Proof

variable {s t : State}

theorem keepsChains_of_portOnly (h : PortOnly s t) : KeepsChains s t := by
  rw [h]
  exact keepsChains_of_same ⟨rfl, rfl, rfl, rfl⟩ rfl rfl

theorem keepsChains_testMarks (s : State) : KeepsChains s (testMarks s) :=
  keepsChains_of_slots (slotsSettle_testMarks s) (by simp) (by simp) (by simp) (by simp)

theorem keepsChains_of_hostRow (h : HostRow s t) : KeepsChains s t := by
  cases h with
  | port hp => exact keepsChains_of_portOnly hp
  | command c code => exact (keepsChains_commandBody c _).after (keepsChains_of_blocks rfl rfl rfl rfl rfl)
  | marks hp => exact (keepsChains_of_portOnly hp).trans (keepsChains_testMarks _)

theorem keepsChains_lineEvent {holds : Bool} {f : State → State} (ht : lineEvent holds f s = .next t)
    (hf : holds = true → KeepsChains s (f s)) : KeepsChains s t := by
  rcases lineEvent_cases ht with rfl | ⟨_, hholds, rfl⟩
  · exact .refl _
  · exact hf hholds

theorem keepsChains_exec {i : Instr} (ht : exec i s = .next t) : KeepsChains s t := by
  by_cases hi : movesLine i = true
  case neg => exact keepsChains_of_hostRow (exec_hostRow (by simpa using hi) ht)
  cases i with
  | resetAsserted | resetReleased | powerUp => cases ht; exact keepsChains_of_reset rfl rfl rfl rfl
  | startBit =>
    rw [exec, execStartBit] at ht
    refine keepsChains_lineEvent ht fun hc => (keepsChains_takeMarks s).trans (keepsChains_takeStartBit ?_)
    intro hoffline
    rw [takeMarks_station] at hoffline
    simp [hoffline, Station.readsLine] at hc
  | characterReceived v stop => exact keepsChains_characterReceived ht
  | gapGuardClear => exact keepsChains_lineEvent ht fun _ => keepsChains_reachQuiet _ s
  | gapLimitRecover => exact keepsChains_lineEvent ht fun _ => keepsChains_reachQuiet _ s
  | gapLimitTruncation =>
    rw [exec, execGapLimitTruncation] at ht
    exact keepsChains_lineEvent ht fun _ => (keepsChains_reachQuiet _ s).trans (keepsChains_endReception .truncated _)
  | demotionClear c =>
    rw [exec, execDemotionClear] at ht
    exact keepsChains_lineEvent ht fun _ =>
      (keepsChains_reachQuiet _ s).trans (keepsChains_of_blocks rfl rfl rfl rfl rfl)
  | leadStart =>
    rcases exec_leadStart_cases ht with rfl | ⟨o, chars, _, _, _, rfl⟩
    · exact .refl _
    · have hreached : KeepsChains s (clearReachedDemotions (reachQuiet (threshold s (offerClass s o)) s)) :=
        (keepsChains_reachQuiet _ s).trans (keepsChains_of_blocks rfl rfl rfl rfl rfl)
      exact hreached.trans ((keepsChains_ownStartBit _).trans (keepsChains_commitOffer o chars _))
  | contentionLost k =>
    rcases exec_contentionLost_cases ht with rfl | ⟨b, _, _, honline, rfl⟩
    · exact .refl _
    · exact keepsChains_loseLead b k (by rw [honline]; decide)
  | leadWon =>
    rcases exec_leadWon_cases ht with rfl | ⟨b, _, _, rfl⟩
    · exact .refl _
    · exact keepsChains_of_blocks rfl rfl rfl rfl rfl
  | echoFault k =>
    rcases exec_echoFault_cases ht with rfl | ⟨b, _, _, _, rfl⟩
    · exact .refl _
    · exact keepsChains_takeEchoFault b k s
  | frameSent =>
    rcases exec_frameSent_cases ht with rfl | ⟨b, _, _, rfl⟩
    · exact .refl _
    · exact (keepsChains_takeFrameEnd b s).trans ((keepsChains_reportSent _ _).trans (keepsChains_reevaluate _))
  | responseStart =>
    rcases exec_responseStart_cases ht with rfl | ⟨chars, u, _, _, rfl, rfl⟩
    · exact .refl _
    · exact (keepsChains_reachQuiet _ s).trans ((keepsChains_takeMarks _).trans
        ((keepsChains_ownStartBit _).trans (keepsChains_of_blocks rfl rfl rfl rfl rfl)))
  | responseSent =>
    rcases exec_responseSent_cases ht with rfl | ⟨b, _, _, rfl⟩
    · exact .refl _
    · exact (keepsChains_takeFrameEnd b s).trans (keepsChains_reevaluate _)
  | noResponse =>
    rcases exec_noResponse_cases ht with rfl | ⟨_, rfl⟩
    · exact .refl _
    · exact (keepsChains_reachQuiet _ s).trans (keepsChains_closeAtDeadline _)
  | holdoffExpiry node =>
    exact keepsChains_lineEvent ht fun _ =>
      keepsChains_of_slots (slotsSettle_releasePeer node s) (by simp) (by simp) (by simp) (by simp)
  | dominantBitInRecover =>
    rw [exec, execDominantBitInRecover] at ht
    exact keepsChains_lineEvent ht fun _ =>
      (keepsChains_takeMarks s).trans (keepsChains_of_blocks rfl rfl rfl rfl rfl)
  | _ => simp [movesLine] at hi

/-- With nothing waiting the part counts its timers and the bits of the line, and queues rows. -/
theorem keepsChains_idle (s : State) : KeepsChains s (idle s) := by
  have hbit : KeepsChains s (bitTime s) := by
    unfold bitTime tickLine
    split
    · exact .refl s
    · dsimp only
      split
      · exact keepsChains_of_same ⟨rfl, rfl, rfl, rfl⟩ rfl rfl
      · split <;> exact keepsChains_of_same ⟨rfl, rfl, rfl, rfl⟩ rfl rfl
  unfold idle
  split
  · exact hbit
  · exact keepsChains_of_blocks rfl rfl rfl rfl rfl

theorem keepsChains_step (ht : step s = .next t) : KeepsChains s t := by
  unfold step at ht
  split at ht
  · cases ht; exact keepsChains_idle s
  · next c rest _ =>
    have hrest : KeepsChains s { s with pending := rest } := keepsChains_of_blocks rfl rfl rfl rfl rfl
    exact hrest.trans (keepsChains_exec ht)

/-- Settles O7: no row makes or loses a block; it goes from one holder to another, whole chain by whole chain. -/
theorem everyBlockKeepsOneHolder : Obligations.EveryBlockKeepsOneHolder :=
  fun _ _ h ht => (keepsChains_step ht).1 h

/-- Settles O13: a chain is claimed with the blocks of its length, and is cut to the length of the entry that it is
handed to. -/
theorem chainsFitTheirLengths : Obligations.ChainsFitTheirLengths :=
  fun _ _ h ht => (keepsChains_step ht).2 h

end Sys2Proof.Machine
end

section
/-! SUPPORT. How a step can end (R31, R37, R51): with a next state, and with a fault only where the chains or the offer
are not as their laws say. -/

namespace Sys2Proof.Machine

open Sys2Proof

variable {s t u : State} {b : Byte} {r : Rx} {n : SlotId} {chain : List Block}

/-- The ends of a step from `s`, each fault with the law that excludes it. -/
inductive Ends (s : State) : Host.Outcome State Fault Refusal → Prop where
  | next (t : State) : Ends s (.next t)
  | outsideChain : ¬ ChainLaw s → Ends s (.fault .outsideChain)
  | noFrameSource : ¬ OfferLaw s → Ends s (.fault .noFrameSource)

/-! ### Offsets below the length -/

/-- The bytes of a message whose chain fits its length (R51). -/
theorem messageBytes_isSome {length : Nat} (h : chain.length = blocksFor length) :
    ∃ bytes, messageBytes s chain length = some bytes := by
  have hbytes (ks : List Nat) (hks : ∀ k ∈ ks, k < length) :
      ∃ bytes, ks.mapM (fun k => messageByte s chain k) = some bytes := by
    induction ks with
    | nil => exact ⟨[], rfl⟩
    | cons k ks ih =>
      obtain ⟨a, ha⟩ := messageAddress_isSome h (hks k List.mem_cons_self)
      obtain ⟨bytes, hrest⟩ := ih fun j hj => hks j (List.mem_cons_of_mem k hj)
      have hbyte : messageByte s chain k = some (Memory.read s.bp.mem a) := by
        simp only [messageByte, ha, Option.map_some]
      exact ⟨Memory.read s.bp.mem a :: bytes, by simp [List.mapM_cons, hbyte, hrest]⟩
  exact hbytes _ fun k hk => List.mem_range.mp hk

/-- A WINDATA read that is taken reaches an offset of a message whose chain fits (R194). -/
theorem windowReadChain_fits (h : ChainLaw s) (hw : windowReadChain s = some chain) :
    ∃ a, messageAddress chain s.hp.winOfs = some a := by
  obtain ⟨hslots, hentries, _⟩ := chainLaw_iff.mp h
  unfold windowReadChain at hw
  split at hw
  · split at hw
    · cases hw
    · next sl hs =>
      split at hw <;> cases hw
      next hc =>
      simp only [Bool.and_eq_true, decide_eq_true_eq] at hc
      obtain ⟨hreadable, hlength⟩ := hc
      refine messageAddress_isSome (hslots _ sl hs ?_) hlength
      cases hp : sl.phase <;> simp_all [SlotPhase.readable, SlotPhase.outcome]
  · split at hw
    · cases hw
    · next e rest he =>
      split at hw <;> cases hw
      next hlength => exact messageAddress_isSome (hentries e (he ▸ List.mem_cons_self)) hlength

/-- A WINDATA write that is taken reaches an offset of a LOADING slot whose chain fits (R194). -/
theorem windowWriteChain_fits (h : ChainLaw s) (hw : windowWriteChain s = some chain) :
    ∃ a, messageAddress chain s.hp.winOfs = some a := by
  obtain ⟨hslots, _⟩ := chainLaw_iff.mp h
  unfold windowWriteChain at hw
  split at hw
  · cases hw
  split at hw
  · cases hw
  next sl hs =>
  split at hw <;> cases hw
  next hc =>
  exact messageAddress_isSome (hslots _ sl hs (by rw [hc.1]; rfl)) hc.2

theorem ends_readWindata (s : State) : Ends s (readWindata s) := by
  unfold readWindata
  split
  · exact .next _
  next hw =>
  split
  · next hnone =>
    refine .outsideChain fun h => ?_
    obtain ⟨a, ha⟩ := windowReadChain_fits h hw
    simp [messageByte, ha] at hnone
  · exact .next _

theorem ends_writeWindata (v : Byte) (s : State) : Ends s (writeWindata v s) := by
  unfold writeWindata
  split
  · exact .next _
  next hw =>
  split
  · next hnone =>
    refine .outsideChain fun h => ?_
    obtain ⟨a, ha⟩ := windowWriteChain_fits h hw
    simp [storeMessageByte, ha] at hnone
  · exact .next _

theorem ends_registerWrite (offset : BitVec 6) (v : Byte) (s : State) : Ends s (execRegisterWrite offset v s) := by
  unfold execRegisterWrite
  split
  · exact .next _
  split
  · exact .next _
  next register _ =>
  cases register with
  | windata => exact ends_writeWindata v s
  | _ => exact .next _

/-! ### The payload of a frame being received -/

/-- A character of BODY is taken while the chain of the frame fits (R51, R55). -/
theorem takeCharacter_isSome {stop : LineBit} (h : RecordLaw s) (hr : s.fr.record = some r) :
    takeCharacter b stop r s ≠ none := by
  intro hnone
  unfold takeCharacter takeComplete takeBody at hnone
  dsimp only at hnone
  split at hnone
  · cases hnone
  split at hnone
  · cases hnone
  · next hm =>
    split at hnone
    · cases hnone
    split at hnone
    · next hclaim =>
      obtain ⟨hchain, _, _, hbody⟩ := (h r hr).2 hclaim
      obtain ⟨a, ha⟩ := messageAddress_isSome hchain (hbody hm).1
      simp [storeMessageByte, ha] at hnone
    · cases hnone
  · cases hnone
  · cases hnone

theorem ends_characterReceived (v : Byte) (stop : LineBit) (s : State) :
    Ends s (execCharacterReceived v stop s) := by
  unfold execCharacterReceived
  split
  · exact .next _
  split
  · exact .next _
  next c st u harrives =>
  split
  · next r hr =>
    split
    · next hnone =>
      refine .outsideChain fun h => ?_
      obtain ⟨_, _, hrecord⟩ := chainLaw_iff.mp ((keepsChains_arrivingCharacter harrives).2 h)
      exact takeCharacter_isSome hrecord hr hnone
    · exact .next _
  · split <;> exact .next _

/-! ### The frames that LAC forms -/

/-- The frame of the OFFERED slot can be formed: its payload lies in its chain, and a DATA slot has its peer entry. -/
theorem slotFrame_error {sl : Slot} {src : Nat} {e : Fault} (hs : slotAt s n = some sl) (hp : sl.phase = .offered)
    (he : slotFrame s src sl = .error e) : e = .outsideChain ∧ ¬ ChainLaw s ∨ e = .noFrameSource ∧ ¬ OfferLaw s := by
  unfold slotFrame at he
  split at he
  · next hnone =>
    cases he
    refine .inl ⟨rfl, fun h => ?_⟩
    obtain ⟨bytes, hbytes⟩ := messageBytes_isSome (s := s) ((chainLaw_iff.mp h).1 n sl hs (by rw [hp]; rfl))
    rw [hbytes] at hnone
    cases hnone
  split at he
  · cases he
  next hk =>
  split at he <;> cases he
  next hnone =>
  refine .inr ⟨rfl, fun ⟨_, _, _, _, _, hpeer, _⟩ => ?_⟩
  obtain ⟨p, hfound, _⟩ := hpeer n sl hs (by simp [Slot.holdsPeer, hp]) hk
  rw [hfound] at hnone
  cases hnone

/-- The frame of an offer that may lead can be formed (R31). -/
theorem offerFrame_error {o : Offer} {e : Fault} (ho : s.lac.offer = some o) (hlead : mayLead s = true)
    (he : offerFrame s o = .error e) : e = .outsideChain ∧ ¬ ChainLaw s ∨ e = .noFrameSource ∧ ¬ OfferLaw s := by
  unfold offerFrame at he
  split at he
  · next hnone =>
    cases he
    refine .inr ⟨rfl, fun ⟨_, _, _, _, _, _, _, haddress, _⟩ => ?_⟩
    simp only [mayLead, Bool.and_eq_true] at hlead
    exact haddress hlead.1.1.1 hnone
  split at he
  · split at he <;> cases he
    next hnone => exact .inr ⟨rfl, fun ⟨_, _, _, _, hnotice, _⟩ => hnotice ho hnone⟩
  · next n =>
    split at he
    · next hnone =>
      cases he
      refine .inr ⟨rfl, fun ⟨_, _, hoffered, _⟩ => ?_⟩
      obtain ⟨sl, hs, hp⟩ := slotIn_iff.mp ((hoffered n).mp ho)
      rw [slotWhen_eq_some.mpr ⟨hs, hp⟩] at hnone
      cases hnone
    · next hw =>
      obtain ⟨hs, hp⟩ := slotWhen_eq_some.mp hw
      exact slotFrame_error hs hp he

theorem ends_leadStart (s : State) : Ends s (execLeadStart s) := by
  unfold execLeadStart
  split
  · exact .next _
  next o ho =>
  split
  · next hc =>
    simp only [Bool.and_eq_true] at hc
    split
    · next he =>
      rcases offerFrame_error ho hc.2 he with ⟨rfl, h⟩ | ⟨rfl, h⟩
      · exact .outsideChain h
      · exact .noFrameSource h
    · exact .next _
  · exact .next _

/-- A station that sends has the address that its response carries (R37). -/
theorem ends_responseStart (s : State) : Ends s (execResponseStart s) := by
  unfold execResponseStart
  split
  · exact .next _
  split
  · next hc =>
    split
    · next hnone =>
      simp only [Bool.and_eq_true] at hc
      exact .noFrameSource fun ⟨_, _, _, _, _, _, _, haddress, _⟩ => haddress hc.1.2 hnone
    · exact .next _
  · exact .next _

/-! ### Every step -/

/-- Every row answers a next state but for those of WINDATA, of a character, and of the frames that LAC forms. -/
theorem ends_exec (i : Instr) (s : State) : Ends s (exec i s) := by
  cases i with
  | windataRead =>
    simp only [exec, execWindataRead]
    split
    · exact .next _
    · exact ends_readWindata s
  | windataWrite v =>
    simp only [exec, execWindataWrite]
    split
    · exact .next _
    · exact ends_writeWindata v s
  | registerWrite offset v => exact ends_registerWrite offset v s
  | characterReceived v stop => exact ends_characterReceived v stop s
  | leadStart => exact ends_leadStart s
  | responseStart => exact ends_responseStart s
  | contentionLost | leadWon | echoFault | frameSent | responseSent | noResponse =>
    simp only [exec, execContentionLost, execLeadWon, execEchoFault, execFrameSent, execResponseSent, execNoResponse]
    split <;> exact .next _
  | _ => exact .next _

/-- Where both laws stand, the same fault is excluded. -/
theorem Ends.of_laws {o : Host.Outcome State Fault Refusal} (h : Ends u o) (hchain : ChainLaw s → ChainLaw u)
    (hoffer : OfferLaw s → OfferLaw u) : Ends s o := by
  cases h with
  | next t => exact .next t
  | outsideChain hu => exact .outsideChain (hu ∘ hchain)
  | noFrameSource hu => exact .noFrameSource (hu ∘ hoffer)

theorem ends_step (s : State) : Ends s (step s) := by
  unfold step
  split
  · exact .next _
  · next c rest _ => exact (ends_exec c { s with pending := rest }).of_laws id id

/-- Settles O14: each fault, traced back to the test that raises it, contradicts the law that its row relies on. -/
theorem noOffsetLeavesItsChain : Obligations.NoOffsetLeavesItsChain := by
  intro s
  have hends := ends_step s
  refine ⟨fun r hr => ?_, fun h hf => ?_, fun h hf => ?_⟩
  · rw [hr] at hends
    cases hends
  · rw [hf] at hends
    cases hends with | outsideChain hn => exact hn h
  · rw [hf] at hends
    cases hends with | noFrameSource hn => exact hn h

end Sys2Proof.Machine
end
